-- ==== Sys2Proof/Word.lean ====
section
/-! DEFINITION. The word types of the engine: 32-bit words (00_scope.md R8 `WORD`) and bytes. -/

namespace Sys2Proof

/-- A 32-bit unsigned word, the width of every word of `Hs`, `wr`, `W`, `K`, `HINIT` (R8, R10). -/
abbrev Word := BitVec 32

/-- A byte: an element of `BLK` and `HEX`, the `arg` of a command, a response (R9, R50). -/
abbrev Byte := BitVec 8

end Sys2Proof
end

