-- ==== Sys2Proof/Config.lean ====
section
/-! DEFINITION. What is fixed for the engine (00_scope.md R8, R9) and its free values. -/

namespace Sys2Proof

/-- `BLOCKBYTES` (R8). -/
abbrev Config.blockBytes : Nat := 64

/-- `MAXBYTES` = 2^61 - 1, the longest message in bytes the engine digests (R8, 90_conflicts.md C2). -/
abbrev Config.maxBytes : Nat := 2 ^ 61 - 1

/-- The largest value of `LEN`, 2^64 - 8 (10_state.md R30, R41). -/
abbrev Config.maxLen : Nat := 2 ^ 64 - 8

/-- Free values: what a data register holds after a reset step, which the spec leaves unspecified
(70_reset_and_hazards.md R200, 10_state.md R44, 93_implementation_defined.md U2). The n-th value drawn
is `freeWord n`; nothing constrains it. DESIGN CHOICE, safe (entry 2). -/
opaque Config.freeWord : Nat → Word

/-- Free values: what a byte of `BLK` or `HEX` that nothing has written since reset reads as ("any value",
93_implementation_defined.md U2). Nothing constrains it. DESIGN CHOICE, safe (entry 3). -/
opaque Config.freeByte : Nat → Byte

end Sys2Proof
end

