-- ==== Sys2Proof/Syntax.lean ====
section
/-! DEFINITION. The instructions of the engine: one constructor per row of spec/opcode_table.json. -/

namespace Sys2Proof

/-- The engine's two kinds of instruction (30_encoding.md, introduction): the five commands the host
presents (format C) and the thirteen values of the sequencer register (format U): nine
micro-operations and four wait states. Operand widths are those of the table's fields. -/
inductive Instr where
  /-- INIT, `0001 0000 0000` (44_top_level.md R153). -/
  | init
  /-- PUSH, `0010 dddd dddd`: `d` is the message byte (R154). -/
  | push (d : Byte)
  /-- FINAL, `0011 0000 0000` (R155). -/
  | final
  /-- RDHEX, `0100 00ii iiii`: `i` is the character index (R156). -/
  | rdhex (i : BitVec 6)
  /-- RDSTAT, `0101 zzzz zzzz`: `z` is ignored (R157). -/
  | rdstat (z : Byte)
  /-- IDLE, `0000 000000`: wait state, no micro-operation (R160). -/
  | idle
  /-- ABSORB, `0001 000000`: wait state (R161). -/
  | absorb
  /-- PAD80, `0010 000000` (41_padding.md R120). -/
  | pad80
  /-- PADZ, `0011 000000` (R121). -/
  | padz
  /-- PADLEN, `0100 000ttt`: `t` is the index of the length byte (R122). -/
  | padlen (t : BitVec 3)
  /-- LOADW, `0101 00tttt`: `t` is the schedule word loaded (42_schedule.md R130). -/
  | loadw (t : BitVec 4)
  /-- EXPAND, `0110 tttttt`: `t` is the schedule word derived, 16 to 63 (R131). -/
  | expand (t : BitVec 6)
  /-- INITWR, `0111 000000` (43_compression.md R140). -/
  | initwr
  /-- ROUND, `1000 tttttt`: `t` is the round (R141). -/
  | round (t : BitVec 6)
  /-- FEEDFWD, `1001 000000` (R142). -/
  | feedfwd
  /-- RENDER, `1010 tttttt`: `t` is the character index (44_top_level.md R165). -/
  | render (t : BitVec 6)
  /-- DONE, `1011 000000`: wait state (R162). -/
  | done
  /-- ERROR, `1111 tttttt`: wait state, `t` frozen by the fault (R163). -/
  | error (t : BitVec 6)
  deriving DecidableEq, Repr

/-- A word of one of the two formats. A command word and a `SEQ` value are different things
(30_encoding.md R72, R78): the same number means one instruction in one and another in the other. -/
inductive RawWord where
  /-- Format C, a 12-bit command word (R72). -/
  | cmd (w : BitVec 12)
  /-- Format U, a 10-bit value of `SEQ` (R78). -/
  | seq (w : BitVec 10)
  deriving DecidableEq, Repr

end Sys2Proof
end

