-- ==== Sys2Proof/WellFormed.lean ====
section
/-! DEFINITION. Which terms of `Instr` stand for an instruction the spec gives. -/

namespace Sys2Proof

/-- EXPAND is defined for `t` from 16 to 63 only (30_encoding.md R79). Every other range the spec gives
an operand is the range of the operand's type. -/
def Instr.wellFormed : Instr → Bool
  | .expand t => decide (16 ≤ t.toNat)
  | .init => true
  | .push _ => true
  | .final => true
  | .rdhex _ => true
  | .rdstat _ => true
  | .idle => true
  | .absorb => true
  | .pad80 => true
  | .padz => true
  | .padlen _ => true
  | .loadw _ => true
  | .initwr => true
  | .round _ => true
  | .feedfwd => true
  | .render _ => true
  | .done => true
  | .error _ => true

/-- The instruction is a command (format C), not a value of the sequencer register. -/
def Instr.isCommand : Instr → Bool
  | .init => true
  | .push _ => true
  | .final => true
  | .rdhex _ => true
  | .rdstat _ => true
  | .idle => false
  | .absorb => false
  | .pad80 => false
  | .padz => false
  | .padlen _ => false
  | .loadw _ => false
  | .expand _ => false
  | .initwr => false
  | .round _ => false
  | .feedfwd => false
  | .render _ => false
  | .done => false
  | .error _ => false

end Sys2Proof
end

