-- ==== Sys2Proof/Decode.lean ====
section
/-! DEFINITION. The decoder of both formats, total, rejecting by name; the encoder; the opcode table. -/

namespace Sys2Proof

/-- Why a word is no instruction. -/
inductive Reject where
  /-- `op` is `0x0` or `0x6` to `0xF` (30_encoding.md R77). -/
  | reservedOpcode
  /-- INIT or FINAL with `arg` ≠ 0, or RDHEX with `arg[7:6]` ≠ 0 (R77). -/
  | reservedArgument
  /-- `SEQ.phase` is 12, 13 or 14 (R78). -/
  | reservedPhase
  /-- `SEQ.t` outside the bits the phase's pattern leaves free (R79). -/
  | reservedIndex
  deriving DecidableEq, Repr

/-! ### The phase codes (30_encoding.md R78) -/

/-- The named values of `SEQ.phase`. Codes 12, 13 and 14 are reserved and unreachable; the type cannot
hold them, which is the treatment 93_implementation_defined.md U3 asks for (entry 7). -/
inductive Phase where
  | idle | absorb | pad80 | padz | padlen | loadw | expand | initwr | round | feedfwd | render | done
  | error
  deriving DecidableEq, Repr

/-- The 4-bit code of a phase (R78). -/
def Phase.code : Phase → BitVec 4
  | .idle => 0
  | .absorb => 1
  | .pad80 => 2
  | .padz => 3
  | .padlen => 4
  | .loadw => 5
  | .expand => 6
  | .initwr => 7
  | .round => 8
  | .feedfwd => 9
  | .render => 10
  | .done => 11
  | .error => 15

/-- The phase a 4-bit code names (R78). -/
def Phase.ofCode (c : BitVec 4) : Option Phase :=
  if c = 0 then some .idle
  else if c = 1 then some .absorb
  else if c = 2 then some .pad80
  else if c = 3 then some .padz
  else if c = 4 then some .padlen
  else if c = 5 then some .loadw
  else if c = 6 then some .expand
  else if c = 7 then some .initwr
  else if c = 8 then some .round
  else if c = 9 then some .feedfwd
  else if c = 10 then some .render
  else if c = 11 then some .done
  else if c = 15 then some .error
  else none

/-! ### Fields -/

/-- `cmd[11:8]` (R72). -/
def cmdOp (w : BitVec 12) : BitVec 4 := w.extractLsb' 8 4

/-- `cmd[7:0]` (R72). -/
def cmdArg (w : BitVec 12) : Byte := w.extractLsb' 0 8

/-- `SEQ[9:6]` (R78). -/
def seqPhase (w : BitVec 10) : BitVec 4 := w.extractLsb' 6 4

/-- `SEQ[5:0]` (R78). -/
def seqIndex (w : BitVec 10) : BitVec 6 := w.extractLsb' 0 6

/-- The command word with these fields (R72). -/
def cmdWord (op : BitVec 4) (arg : Byte) : BitVec 12 := op ++ arg

/-- The `SEQ` value with these fields (R78). -/
def seqWord (phase : BitVec 4) (t : BitVec 6) : BitVec 10 := phase ++ t

/-! ### Decoding -/

/-- The command opcode map (R75, R77). -/
def decodeCommand (w : BitVec 12) : Except Reject Instr :=
  if cmdOp w = 1 then
    if cmdArg w = 0 then .ok .init else .error .reservedArgument
  else if cmdOp w = 2 then .ok (.push (cmdArg w))
  else if cmdOp w = 3 then
    if cmdArg w = 0 then .ok .final else .error .reservedArgument
  else if cmdOp w = 4 then
    if (cmdArg w).extractLsb' 6 2 = 0 then .ok (.rdhex ((cmdArg w).extractLsb' 0 6))
    else .error .reservedArgument
  else if cmdOp w = 5 then .ok (.rdstat (cmdArg w))
  else .error .reservedOpcode

/-- The micro-operation or wait state a phase and an index select (R79). `t` must lie in the bits the
pattern of the row leaves free. EXPAND's further bound `16 ≤ t` is `Instr.wellFormed`'s. -/
def decodePhase (p : Phase) (t : BitVec 6) : Except Reject Instr :=
  match p with
  | .idle => if t = 0 then .ok .idle else .error .reservedIndex
  | .absorb => if t = 0 then .ok .absorb else .error .reservedIndex
  | .pad80 => if t = 0 then .ok .pad80 else .error .reservedIndex
  | .padz => if t = 0 then .ok .padz else .error .reservedIndex
  | .padlen => if t.extractLsb' 3 3 = 0 then .ok (.padlen (t.extractLsb' 0 3)) else .error .reservedIndex
  | .loadw => if t.extractLsb' 4 2 = 0 then .ok (.loadw (t.extractLsb' 0 4)) else .error .reservedIndex
  | .expand => .ok (.expand t)
  | .initwr => if t = 0 then .ok .initwr else .error .reservedIndex
  | .round => .ok (.round t)
  | .feedfwd => if t = 0 then .ok .feedfwd else .error .reservedIndex
  | .render => .ok (.render t)
  | .done => if t = 0 then .ok .done else .error .reservedIndex
  | .error => .ok (.error t)

/-- Micro-operation selection: a function of `SEQ` alone (R79). -/
def decodeSeq (w : BitVec 10) : Except Reject Instr :=
  match Phase.ofCode (seqPhase w) with
  | some p => decodePhase p (seqIndex w)
  | none => .error .reservedPhase

/-- The decoder of both formats. -/
def decode : RawWord → Except Reject Instr
  | .cmd w => decodeCommand w
  | .seq w => decodeSeq w

/-! ### Encoding, from the tables R75 and R79 -/

/-- The word of an instruction. -/
def encode : Instr → RawWord
  | .init => .cmd (cmdWord 1 0)
  | .push d => .cmd (cmdWord 2 d)
  | .final => .cmd (cmdWord 3 0)
  | .rdhex i => .cmd (cmdWord 4 ((0 : BitVec 2) ++ i))
  | .rdstat z => .cmd (cmdWord 5 z)
  | .idle => .seq (seqWord 0 0)
  | .absorb => .seq (seqWord 1 0)
  | .pad80 => .seq (seqWord 2 0)
  | .padz => .seq (seqWord 3 0)
  | .padlen t => .seq (seqWord 4 ((0 : BitVec 3) ++ t))
  | .loadw t => .seq (seqWord 5 ((0 : BitVec 2) ++ t))
  | .expand t => .seq (seqWord 6 t)
  | .initwr => .seq (seqWord 7 0)
  | .round t => .seq (seqWord 8 t)
  | .feedfwd => .seq (seqWord 9 0)
  | .render t => .seq (seqWord 10 t)
  | .done => .seq (seqWord 11 0)
  | .error t => .seq (seqWord 15 t)

/-! ### The rows of spec/opcode_table.json -/

/-- One row of the opcode table: a word of `width` bits belongs to the row when its bits under `mask`
are `pattern`. -/
structure TableRow where
  mnemonic : String
  width : Nat
  pattern : Nat
  mask : Nat
  deriving DecidableEq, Repr

/-- The row of the table an instruction belongs to, copied from spec/opcode_table.json. -/
def Instr.row : Instr → TableRow
  | .init => ⟨"INIT", 12, 0x100, 0xFFF⟩
  | .push _ => ⟨"PUSH", 12, 0x200, 0xF00⟩
  | .final => ⟨"FINAL", 12, 0x300, 0xFFF⟩
  | .rdhex _ => ⟨"RDHEX", 12, 0x400, 0xFC0⟩
  | .rdstat _ => ⟨"RDSTAT", 12, 0x500, 0xF00⟩
  | .idle => ⟨"IDLE", 10, 0x000, 0x3FF⟩
  | .absorb => ⟨"ABSORB", 10, 0x040, 0x3FF⟩
  | .pad80 => ⟨"PAD80", 10, 0x080, 0x3FF⟩
  | .padz => ⟨"PADZ", 10, 0x0C0, 0x3FF⟩
  | .padlen _ => ⟨"PADLEN", 10, 0x100, 0x3F8⟩
  | .loadw _ => ⟨"LOADW", 10, 0x140, 0x3F0⟩
  | .expand _ => ⟨"EXPAND", 10, 0x180, 0x3C0⟩
  | .initwr => ⟨"INITWR", 10, 0x1C0, 0x3FF⟩
  | .round _ => ⟨"ROUND", 10, 0x200, 0x3C0⟩
  | .feedfwd => ⟨"FEEDFWD", 10, 0x240, 0x3FF⟩
  | .render _ => ⟨"RENDER", 10, 0x280, 0x3C0⟩
  | .done => ⟨"DONE", 10, 0x2C0, 0x3FF⟩
  | .error _ => ⟨"ERROR", 10, 0x3C0, 0x3C0⟩

/-- The table, one instruction standing for each row. -/
def opcodeTable : List TableRow :=
  [Instr.init, .push 0, .final, .rdhex 0, .rdstat 0].map Instr.row ++
  [Instr.idle, .absorb, .pad80, .padz, .padlen 0, .loadw 0, .expand 16, .initwr, .round 0, .feedfwd,
    .render 0, .done, .error 0].map Instr.row

/-- The format and the number of a word. -/
def RawWord.width : RawWord → Nat
  | .cmd _ => 12
  | .seq _ => 10

/-- The word read as a number, bit 0 its least significant bit. -/
def RawWord.toNat : RawWord → Nat
  | .cmd w => w.toNat
  | .seq w => w.toNat

/-- The word belongs to the row. -/
def TableRow.covers (r : TableRow) (w : RawWord) : Bool :=
  decide (r.width = w.width) && decide (w.toNat &&& r.mask = r.pattern)

/-! ### Words as the host's table question gives them -/

/-- A decode that succeeds. -/
def accepted? (r : Except Reject Instr) : Option Instr :=
  match r with
  | .ok i => some i
  | .error _ => none

/-- Which format a word of `nbits` bits is read in. 12 bits is a command word and 10 bits a `SEQ` value.
In whole bytes both formats have 16 bits, and a number below 0x400 can be a word of either: then it
is read as a command if it is a legal one with `arg` = 0, else as a `SEQ` value if it is a legal one,
else as a command. DESIGN CHOICE, safe: it only concerns this question, never the machine (entry 8). -/
def tableReading (nbits w : Nat) : Option RawWord :=
  if nbits = 10 then if w < 1024 then some (.seq (BitVec.ofNat 10 w)) else none
  else if nbits = 12 then if w < 4096 then some (.cmd (BitVec.ofNat 12 w)) else none
  else if nbits = 16 then
    if 4096 ≤ w then none
    else if 1024 ≤ w then some (.cmd (BitVec.ofNat 12 w))
    else if (accepted? (decodeCommand (BitVec.ofNat 12 w))).isSome ∧ w % 256 = 0 then
      some (.cmd (BitVec.ofNat 12 w))
    else if (accepted? (decodeSeq (BitVec.ofNat 10 w))).isSome then some (.seq (BitVec.ofNat 10 w))
    else some (.cmd (BitVec.ofNat 12 w))
  else none

/-- The instruction the decoder reads from a word numbered as spec/opcode_table.json numbers it. -/
def decodeTableWord (nbits w : Nat) : Option Instr :=
  match tableReading nbits w with
  | some raw => accepted? (decode raw)
  | none => none

end Sys2Proof
end

