-- ==== Sys2Proof/Machine/State.lean ====
section
/-! DEFINITION. The state of the engine as plain data (10_state.md), the reasons a step can stop, reset. -/

namespace Sys2Proof.Machine

/-- Eight 32-bit words, `a` the word of index 0 and `h` that of index 7: the shape of `Hs` and of `wr`
(10_state.md R20, R21, 90_conflicts.md C3). -/
structure Words8 where
  a : Word
  b : Word
  c : Word
  d : Word
  e : Word
  f : Word
  g : Word
  h : Word
  deriving DecidableEq, Repr

/-- A byte memory: the bytes written since reset, addresses strictly rising (20_memory.md R50). An address
that is not listed holds no known value (10_state.md R44) and reads as a free one (entry 3). -/
abbrev Memory := List Host.Cell

/-- `SEQ`, the sequencer register: `SEQ[9:6]` = `phase`, `SEQ[5:0]` = `t` (R23). -/
structure Seq where
  phase : Phase
  t : BitVec 6
  deriving DecidableEq, Repr

/-- `RET`, the link register of the block subroutine (R28). Code 3 is reserved and unreachable; the type
cannot hold it (93_implementation_defined.md U3, entry 7). -/
inductive Ret where
  | absorb | padz | render
  deriving DecidableEq, Repr

/-- The 2-bit code of `RET` (R28). -/
def Ret.code : Ret → BitVec 2
  | .absorb => 0
  | .padz => 1
  | .render => 2

/-- `CAUSE`, the fault cause (R31). Codes 5, 6 and 7 are never written. -/
inductive Cause where
  | noFault | illegalCmd | protocol | lenOverflow | blockSize
  deriving DecidableEq, Repr

/-- The 3-bit code of `CAUSE` (R31, 60_exceptions.md R180). -/
def Cause.code : Cause → BitVec 3
  | .noFault => 0
  | .illegalCmd => 1
  | .protocol => 2
  | .lenOverflow => 3
  | .blockSize => 4

/-- What the host drives on the input ports (30_encoding.md R71, R73; entry 4). -/
inductive HostAct where
  /-- `cmd_valid` = 1 with this word, at every step until it is accepted (R84). -/
  | present (w : BitVec 12)
  /-- `cmd_valid` = 1 with this word for one step, then withdrawn, accepted or not (R73). -/
  | offer (w : BitVec 12)
  /-- `cmd_valid` = 0 for one step. -/
  | quiet
  /-- `rst` = 1 for one step (70_reset_and_hazards.md R200). -/
  | reset
  deriving DecidableEq, Repr

/-- Every piece of state of 10_state.md, the ports of 30_encoding.md R71 that a step sets or reads, and
one field of the model's own. -/
structure State where
  /-- `Hs[0..7]`, the hash state (R20). -/
  hs : Words8
  /-- `wr[0..7]` = `a..h`, the working registers (R21). -/
  wr : Words8
  /-- `W[0..63]`, the message schedule (R34). -/
  w : Vector Word 64
  /-- `BLK[0..63]`, the block buffer (R35). -/
  blk : Memory
  /-- `HEX[0..63]`, the rendered digest (R36). -/
  hex : Memory
  /-- `SEQ`, the sequencer register (R23). -/
  seq : Seq
  /-- `RET`, the link register (R28). -/
  ret : Ret
  /-- `FILL`, the bytes held in `BLK` (R29). -/
  fill : BitVec 7
  /-- `LEN`, the message length in bits (R30). -/
  len : BitVec 64
  /-- `CAUSE`, the fault cause (R31). -/
  cause : Cause
  /-- The output `rsp_valid` in the last step (30_encoding.md R71). -/
  rspValid : Bool
  /-- The output `rsp` in the last step (30_encoding.md R71). -/
  rsp : Byte
  /-- What the host drives on the input ports in the steps to come; nothing after its end (entry 4). -/
  input : List HostAct
  /-- The model's own: the index from which the free values are drawn since the last reset (entries 2, 3). -/
  free : Nat
  deriving DecidableEq, Repr

/-- Why the machine stops with a fault: it never does. The engine's own faults (60_exceptions.md) are next
states, and no memory access, arithmetic operation, status read, held command or reset faults (R185). So
there is no constructor. -/
inductive Fault where
  deriving DecidableEq, Repr

/-- Why a step has no meaning. -/
inductive Refusal where
  /-- Raised by an arm of `exec` whose instruction has no meaning yet. Safe. -/
  | notModelled (mnemonic : String)
  /-- Raised by the sequencer, and by EXPAND, when `SEQ` is no pair of 10_state.md R24 ("refuse",
  93_implementation_defined.md U3). Safe; unreachable from reset (entry 7). -/
  | seqUnreachable
  /-- Raised by PUSH, PAD80, PADZ and PADLEN when `FILL` leaves no room for the byte they append: `FILL` > 64
  ("refuse", U3), and for PUSH, PAD80 and PADLEN `FILL` = 64 too, the model's choice (entry 7). Safe;
  unreachable from reset (R29, R39, R40). -/
  | fillUnreachable
  deriving DecidableEq, Repr

/-- Eight words that are all zero. -/
def Words8.zero : Words8 := ⟨0, 0, 0, 0, 0, 0, 0, 0⟩

/-- The state right after a reset step (10_state.md R44, 70_reset_and_hazards.md R200). `Hs`, `wr` and
`W`, which the spec leaves unspecified, are zero: DESIGN CHOICE, unsafe (entry 1). -/
def State.reset : State where
  hs := Words8.zero
  wr := Words8.zero
  w := Vector.replicate 64 0
  blk := []
  hex := []
  seq := ⟨.idle, 0⟩
  ret := .absorb
  fill := 0
  len := 0
  cause := .noFault
  rspValid := false
  rsp := 0
  input := []
  free := 0

end Sys2Proof.Machine
end

