-- ==== Sys2Proof/Machine/Alu.lean ====
section
/-! DEFINITION. The word operations of the datapath (40_primitives.md R90 to R100, R109). `+` on words is
`BitVec` addition, which is addition modulo 2^32 (R90); `&&&`, `^^^`, `~~~` are R92. -/

namespace Sys2Proof.Machine

/-- `rotr(x, n)`: bit `i` of the result is `x[(i + n) mod 32]` (R93). -/
def rotr (x : Word) (n : Nat) : Word := x.rotateRight n

/-- `x >> n`: the logical shift right (R94). -/
def shr (x : Word) (n : Nat) : Word := x >>> n

/-- `ssig0` (R95). -/
def ssig0 (x : Word) : Word := rotr x 7 ^^^ rotr x 18 ^^^ shr x 3

/-- `ssig1` (R96). -/
def ssig1 (x : Word) : Word := rotr x 17 ^^^ rotr x 19 ^^^ shr x 10

/-- `bsig0` (R97). -/
def bsig0 (x : Word) : Word := rotr x 2 ^^^ rotr x 13 ^^^ rotr x 22

/-- `bsig1` (R98). -/
def bsig1 (x : Word) : Word := rotr x 6 ^^^ rotr x 11 ^^^ rotr x 25

/-- `ch(e, f, g)` (R99). -/
def ch (e f g : Word) : Word := (e &&& f) ^^^ (~~~e &&& g)

/-- `maj(a, b, c)` (R100). -/
def maj (a b c : Word) : Word := (a &&& b) ^^^ (a &&& c) ^^^ (b &&& c)

/-- `T1` of a round (R109, 43_compression.md R141). -/
def roundT1 (r : Words8) (k w : Word) : Word := r.h + bsig1 r.e + ch r.e r.f r.g + k + w

/-- `T2` of a round (R109, R141). -/
def roundT2 (r : Words8) : Word := bsig0 r.a + maj r.a r.b r.c

/-- `round(r, k, w)`: all eight words from the words before (R109, R141). -/
def roundFn (r : Words8) (k w : Word) : Words8 :=
  ⟨roundT1 r k w + roundT2 r, r.a, r.b, r.c, r.d + roundT1 r k w, r.e, r.f, r.g⟩

/-- The schedule word made of the words 16, 15, 7 and 2 places before it (R108, 42_schedule.md R131). -/
def scheduleFn (w16 w15 w7 w2 : Word) : Word := w16 + ssig0 w15 + w7 + ssig1 w2

/-- Word by word addition, the feed-forward (R110, 43_compression.md R142). -/
def Words8.add (x y : Words8) : Words8 :=
  ⟨x.a + y.a, x.b + y.b, x.c + y.c, x.d + y.d, x.e + y.e, x.f + y.f, x.g + y.g, x.h + y.h⟩

/-- Word `i` (00_scope.md R12). -/
def Words8.get (x : Words8) (i : Fin 8) : Word :=
  match i with
  | 0 => x.a
  | 1 => x.b
  | 2 => x.c
  | 3 => x.d
  | 4 => x.e
  | 5 => x.f
  | 6 => x.g
  | 7 => x.h

/-- The eight words given one by one. -/
def Words8.ofFn (f : Fin 8 → Word) : Words8 := ⟨f 0, f 1, f 2, f 3, f 4, f 5, f 6, f 7⟩

end Sys2Proof.Machine
end

