-- ==== Sys2Proof/Machine/Flags.lean ====
section
/-! DEFINITION. What is computed from `SEQ.phase` and `CAUSE`: wait and busy phases, `STATUS`, the
outputs (10_state.md R27, R33, 30_encoding.md R71, R73). The datapath has no flags (R26). -/

namespace Sys2Proof

/-- A wait phase: the sequencer takes no step of its own (30_encoding.md R78, R73). -/
def Phase.isWait : Phase → Bool
  | .idle => true
  | .absorb => true
  | .done => true
  | .error => true
  | .pad80 => false
  | .padz => false
  | .padlen => false
  | .loadw => false
  | .expand => false
  | .initwr => false
  | .round => false
  | .feedfwd => false
  | .render => false

/-- A busy phase: every phase that is no wait phase (30_encoding.md R78). -/
def Phase.isBusy (p : Phase) : Bool := !p.isWait

end Sys2Proof

namespace Sys2Proof.Machine

/-- `STATUS.BUSY` and the output `busy` (10_state.md R33). -/
def State.busy (s : State) : Bool := s.seq.phase.isBusy

/-- `STATUS.DONE` and the output `done` (R33). -/
def State.done (s : State) : Bool := decide (s.seq.phase = .done)

/-- `STATUS.ERR` and the output `err` (R33). -/
def State.err (s : State) : Bool := decide (s.seq.phase = .error)

/-- `STATUS.ACTIVE` (R33). -/
def State.active (s : State) : Bool := decide (s.seq.phase = .absorb)

/-- `STATUS`: BUSY bit 0, DONE bit 1, ERR bit 2, ACTIVE bit 3, CAUSE bits 6:4, bit 7 zero (R33). -/
def State.status (s : State) : Byte :=
  (0 : BitVec 1) ++ s.cause.code ++ BitVec.ofBool s.active ++ BitVec.ofBool s.err ++
    BitVec.ofBool s.done ++ BitVec.ofBool s.busy

/-- The output `cause` (30_encoding.md R71). -/
def State.causeOut (s : State) : BitVec 3 := s.cause.code

/-- The output `cmd_ready` while the word `w` is presented (30_encoding.md R73). -/
def State.cmdReady (s : State) (w : BitVec 12) : Bool :=
  s.seq.phase.isWait || decide (cmdOp w = 5)

end Sys2Proof.Machine
end

