-- ==== Sys2Proof/Machine/Operands.lean ====
section
/-! DEFINITION. How bytes meet wider values, the three big-endian places (20_memory.md R54), and the
characters of the digest. The operands of commands are read by the decoder (30_encoding.md R76). -/

namespace Sys2Proof.Machine

/-- `be32(b0, b1, b2, b3)`, `b0` in bits 31:24 (40_primitives.md R101, 20_memory.md R56). -/
def be32 (b0 b1 b2 b3 : Byte) : Word := b0 ++ b1 ++ b2 ++ b3

/-- `LEN[63 - 8t : 56 - 8t]`, byte `t` of the length field (20_memory.md R57, 41_padding.md R122). -/
def lenByte (len : BitVec 64) (t : Nat) : Byte := len.extractLsb' (56 - 8 * t) 8

/-- Nibble `m` of a word, 0 the most significant: bits `31 - 4m : 28 - 4m` (20_memory.md R58). -/
def nibble (x : Word) (m : Nat) : BitVec 4 := x.extractLsb' (28 - 4 * m) 4

/-- `hexchar(n)`, the ASCII code of the lowercase digit (40_primitives.md R102; entry 12). -/
def hexchar (n : BitVec 4) : Byte :=
  if n.toNat ≤ 9 then 0x30 + n.setWidth 8 else 0x57 + n.setWidth 8

end Sys2Proof.Machine
end

