-- ==== Sys2Proof/Machine/Tables.lean ====
section
/-! DEFINITION. The two read-only tables (20_memory.md R51). The spec marks their values as general
knowledge (93_implementation_defined.md G1, G2; entry 12). -/

namespace Sys2Proof.Machine

/-- `K[0..7]` (40_primitives.md R104, the lines 0 and 4). -/
def kRow0 : Words8 where
  a := 0x428a2f98; b := 0x71374491
  c := 0xb5c0fbcf; d := 0xe9b5dba5
  e := 0x3956c25b; f := 0x59f111f1
  g := 0x923f82a4; h := 0xab1c5ed5

/-- `K[8..15]` (40_primitives.md R104, the lines 8 and 12). -/
def kRow1 : Words8 where
  a := 0xd807aa98; b := 0x12835b01
  c := 0x243185be; d := 0x550c7dc3
  e := 0x72be5d74; f := 0x80deb1fe
  g := 0x9bdc06a7; h := 0xc19bf174

/-- `K[16..23]` (40_primitives.md R104, the lines 16 and 20). -/
def kRow2 : Words8 where
  a := 0xe49b69c1; b := 0xefbe4786
  c := 0x0fc19dc6; d := 0x240ca1cc
  e := 0x2de92c6f; f := 0x4a7484aa
  g := 0x5cb0a9dc; h := 0x76f988da

/-- `K[24..31]` (40_primitives.md R104, the lines 24 and 28). -/
def kRow3 : Words8 where
  a := 0x983e5152; b := 0xa831c66d
  c := 0xb00327c8; d := 0xbf597fc7
  e := 0xc6e00bf3; f := 0xd5a79147
  g := 0x06ca6351; h := 0x14292967

/-- `K[32..39]` (40_primitives.md R104, the lines 32 and 36). -/
def kRow4 : Words8 where
  a := 0x27b70a85; b := 0x2e1b2138
  c := 0x4d2c6dfc; d := 0x53380d13
  e := 0x650a7354; f := 0x766a0abb
  g := 0x81c2c92e; h := 0x92722c85

/-- `K[40..47]` (40_primitives.md R104, the lines 40 and 44). -/
def kRow5 : Words8 where
  a := 0xa2bfe8a1; b := 0xa81a664b
  c := 0xc24b8b70; d := 0xc76c51a3
  e := 0xd192e819; f := 0xd6990624
  g := 0xf40e3585; h := 0x106aa070

/-- `K[48..55]` (40_primitives.md R104, the lines 48 and 52). -/
def kRow6 : Words8 where
  a := 0x19a4c116; b := 0x1e376c08
  c := 0x2748774c; d := 0x34b0bcb5
  e := 0x391c0cb3; f := 0x4ed8aa4a
  g := 0x5b9cca4f; h := 0x682e6ff3

/-- `K[56..63]` (40_primitives.md R104, the lines 56 and 60). -/
def kRow7 : Words8 where
  a := 0x748f82ee; b := 0x78a5636f
  c := 0x84c87814; d := 0x8cc70208
  e := 0x90befffa; f := 0xa4506ceb
  g := 0xbef9a3f7; h := 0xc67178f2

/-- Row `r` of the round constants, `K[8r..8r+7]`: eight words, like `Hs` and `wr`. -/
def kRow (r : Fin 8) : Words8 :=
  match r with
  | 0 => kRow0
  | 1 => kRow1
  | 2 => kRow2
  | 3 => kRow3
  | 4 => kRow4
  | 5 => kRow5
  | 6 => kRow6
  | 7 => kRow7

/-- `MemRead(K, t, 1)` (R50, R104): word `t mod 8` of row `t div 8`. -/
def kRead (t : BitVec 6) : Word :=
  (kRow ⟨t.toNat / 8, by have := t.isLt; omega⟩).get ⟨t.toNat % 8, by omega⟩

/-- `HINIT[0..7]`, the initial hash state (40_primitives.md R105). -/
def hinit : Words8 :=
  ⟨0x6a09e667, 0xbb67ae85, 0x3c6ef372, 0xa54ff53a, 0x510e527f, 0x9b05688c, 0x1f83d9ab, 0x5be0cd19⟩

end Sys2Proof.Machine
end

