-- ==== Sys2Proof/Machine/Ops.lean ====
section
/-! DEFINITION. The shared operations: byte memories, the updates of single fields, fault entry, the
block subroutine's call and return, command acceptance, the reset step. -/

namespace Sys2Proof.Machine

/-! ### Byte memories (20_memory.md R50) -/

/-- The byte written at an address since reset, if one has been (entry 3). -/
def Memory.read : Memory → Nat → Option Byte
  | [], _ => none
  | (k, b) :: m, a => if k = a then some b else Memory.read m a

/-- The memory with one byte written; addresses stay strictly rising. -/
def Memory.write : Memory → Nat → Byte → Memory
  | [], a, b => [(a, b)]
  | (k, v) :: m, a, b =>
    if a < k then (a, b) :: (k, v) :: m
    else if a = k then (a, b) :: m
    else (k, v) :: Memory.write m a b

/-- Addresses strictly rising, from `lo` on. -/
def Memory.risingFrom : Nat → Memory → Bool
  | _, [] => true
  | lo, (k, _) :: m => decide (lo ≤ k) && Memory.risingFrom (k + 1) m

/-- Every listed address is one of the 64 of `BLK` and `HEX` (R50). -/
def Memory.inRange (m : Memory) : Bool := m.all fun c => decide (c.1 < 64)

/-- The canonical form: strictly rising addresses, all of them in the space. An unlisted address has no
value, so no entry can equal what an unlisted address reads as. -/
def Memory.wf (m : Memory) : Bool := Memory.risingFrom 0 m && Memory.inRange m

/-! ### Updates of single fields -/

/-- `seq <- (p, t)` (00_scope.md R12). -/
def State.setSeq (s : State) (p : Phase) (t : BitVec 6) : State := { s with seq := ⟨p, t⟩ }

/-- `RET <- r`. -/
def State.setRet (s : State) (r : Ret) : State := { s with ret := r }

/-- `FILL <- n`. -/
def State.setFill (s : State) (n : BitVec 7) : State := { s with fill := n }

/-- `LEN <- n`. -/
def State.setLen (s : State) (n : BitVec 64) : State := { s with len := n }

/-- `Hs[i] <- v[i]` for `i` = 0 to 7. -/
def State.setHs (s : State) (v : Words8) : State := { s with hs := v }

/-- `wr[i] <- v[i]` for `i` = 0 to 7. -/
def State.setWr (s : State) (v : Words8) : State := { s with wr := v }

/-- `MemRead(W, t, 1)` (00_scope.md R12). -/
def State.readW (s : State) (t : BitVec 6) : Word := s.w[t.toNat]'t.isLt

/-- `MemWrite(W, t, 1, v)`. -/
def State.writeW (s : State) (t : BitVec 6) (v : Word) : State :=
  { s with w := s.w.set t.toNat v t.isLt }

/-- `MemRead(BLK, a, 1)` (00_scope.md R12): the byte written since reset, else a free value
(93_implementation_defined.md U2, 60_exceptions.md R185; entry 3). -/
def State.readBlk (s : State) (a : Nat) : Byte :=
  (Memory.read s.blk a).getD (Config.freeByte (s.free + a))

/-- `MemRead(BLK, a, 4)`, big-endian (20_memory.md R56). -/
def State.readBlkWord (s : State) (a : Nat) : Word :=
  be32 (s.readBlk a) (s.readBlk (a + 1)) (s.readBlk (a + 2)) (s.readBlk (a + 3))

/-- `MemRead(HEX, a, 1)`: the byte written since reset, else a free value, as for `BLK` (entry 3). -/
def State.readHex (s : State) (a : Nat) : Byte :=
  (Memory.read s.hex a).getD (Config.freeByte (s.free + 64 + a))

/-- `MemWrite(BLK, a, 1, b)`. -/
def State.writeBlk (s : State) (a : Nat) (b : Byte) : State := { s with blk := Memory.write s.blk a b }

/-- `MemWrite(HEX, a, 1, b)`. -/
def State.writeHex (s : State) (a : Nat) (b : Byte) : State := { s with hex := Memory.write s.hex a b }

/-- `CAUSE <- c`. -/
def State.setCause (s : State) (c : Cause) : State := { s with cause := c }

/-- `rsp <- v` in a step that accepts a command: `rsp_valid` is 1 (30_encoding.md R71). -/
def State.respond (s : State) (v : Byte) : State := { s with rspValid := true, rsp := v }

/-- `rsp_valid` = 0 and `rsp` = 0, as in a step that accepts no command (30_encoding.md R71). -/
def State.clearRsp (s : State) : State := { s with rspValid := false, rsp := 0 }

/-- What the host will drive in the steps to come. -/
def State.setInput (s : State) (l : List HostAct) : State := { s with input := l }

/-! ### Faults (60_exceptions.md R186) -/

/-- Fault entry: `CAUSE <- c`, `SEQ.phase <- ERROR`, `SEQ.t` kept, nothing else (R186). There is no
return from it (R187): only `State.resetStep` leaves ERROR. -/
def State.raise (s : State) (c : Cause) : State := (s.setCause c).setSeq .error s.seq.t

/-- Fault entry in a step that accepts a command: `rsp <- 0x00` as well (R186). -/
def State.raiseCommand (s : State) (c : Cause) : State := (s.raise c).respond 0

/-! ### The block subroutine (30_encoding.md R82) -/

/-- `call BLOCK(r)`: `RET <- r; seq <- (LOADW, 0)`. -/
def State.callBlock (s : State) (r : Ret) : State := (s.setRet r).setSeq .loadw 0

/-- Where the subroutine returns to (10_state.md R28, 43_compression.md R142). -/
def Ret.target : Ret → Phase
  | .absorb => .absorb
  | .padz => .padz
  | .render => .render

/-- One byte appended to the block: `MemWrite(BLK, a, 1, b); FILL <- FILL + 1` (10_state.md R29). With no
room for it it is refused: `FILL` > 64 as 93_implementation_defined.md U3 says, `FILL` = 64 by the model's
choice (entry 7). -/
def appendByte (a : Nat) (b : Byte) (s : State) (k : State → State) :
    Host.Outcome State Fault Refusal :=
  if s.fill.toNat ≤ 63 then .next (k ((s.writeBlk a b).setFill (s.fill + 1)))
  else .refused .fillUnreachable

/-! ### Command acceptance (30_encoding.md R73, 44_top_level.md R152) -/

/-- A command other than RDSTAT. In ERROR it has no effect and the response is `0x00` (R152 line 2, R163).
In the other wait phases it is executed. In a busy phase it is held: it is not accepted and has no
effect (R73; entry 10). -/
def whenAccepted (s : State) (body : Host.Outcome State Fault Refusal) :
    Host.Outcome State Fault Refusal :=
  if s.seq.phase = .error then .next (s.respond 0)
  else if s.seq.phase.isWait = true then body
  else .next s

/-- A command that is legal in phase `p` only: elsewhere the `PROTOCOL` fault (R152 line 4, R182). -/
def legalOnlyIn (p : Phase) (s : State) (body : Host.Outcome State Fault Refusal) :
    Host.Outcome State Fault Refusal :=
  if s.seq.phase = p then body else .next (s.raiseCommand .protocol)

/-- An illegal command word (R152 line 3, 60_exceptions.md R181). -/
def illegalCommand (s : State) : Host.Outcome State Fault Refusal :=
  whenAccepted s (.next (s.raiseCommand .illegalCmd))

/-- One more byte would take `LEN` past 2^64 - 8 (10_state.md R30, 60_exceptions.md R183). `LEN` is a
multiple of 8, and for those this says `LEN` = 2^64 - 8 (entry 9). -/
def State.lenAtLimit (s : State) : Bool := decide (Config.maxLen < s.len.toNat + 8)

/-! ### Reset (70_reset_and_hazards.md R200) -/

/-- The reset step: `SEQ`, `RET`, `FILL`, `LEN`, `CAUSE` zero, no response. `Hs`, `wr` and `W` are
unspecified afterwards: free values (entry 2). `BLK` and `HEX` are too: nothing is listed, so every byte
reads as a free value, and the next free values are other ones (entry 3). -/
def State.resetStep (s : State) : State where
  hs := Words8.ofFn fun i => Config.freeWord (s.free + i.val)
  wr := Words8.ofFn fun i => Config.freeWord (s.free + 8 + i.val)
  w := Vector.ofFn fun i => Config.freeWord (s.free + 16 + i.val)
  blk := []
  hex := []
  seq := ⟨.idle, 0⟩
  ret := .absorb
  fill := 0
  len := 0
  cause := .noFault
  rspValid := false
  rsp := 0
  input := s.input
  free := s.free + 128

/-! ### The input ports (30_encoding.md R71, R73) -/

/-- The word presented at this step, if `cmd_valid` = 1. -/
def State.presented (s : State) : Option (BitVec 12) :=
  match s.input with
  | .present w :: _ => some w
  | .offer w :: _ => some w
  | .quiet :: _ => none
  | .reset :: _ => none
  | [] => none

/-- `rst` = 1 at this step. -/
def State.rst (s : State) : Bool :=
  match s.input with
  | .reset :: _ => true
  | .present _ :: _ => false
  | .offer _ :: _ => false
  | .quiet :: _ => false
  | [] => false

/-- The word accepted at this step: presented, with `cmd_ready` = 1 and `rst` = 0 (R73). -/
def State.acceptedWord (s : State) : Option (BitVec 12) :=
  match s.presented with
  | some w => if s.cmdReady w = true then some w else none
  | none => none

/-- What the host will drive after this step: a word that is presented until accepted stays, everything
else lasts one step (R73, R84). -/
def State.nextInput (s : State) : List HostAct :=
  match s.input with
  | .present w :: l => if s.cmdReady w = true then l else .present w :: l
  | .offer _ :: l => l
  | .quiet :: l => l
  | .reset :: l => l
  | [] => []

/-- What every step does before anything else: no response yet, the host's queue moves on. -/
def State.beginStep (s : State) : State := (s.clearRsp).setInput s.nextInput

/-- One outcome after another: a stop of the first is a stop. -/
def andThen (o : Host.Outcome State Fault Refusal)
    (k : State → Host.Outcome State Fault Refusal) : Host.Outcome State Fault Refusal :=
  match o with
  | .next s => k s
  | .fault r => .fault r
  | .refused r => .refused r

end Sys2Proof.Machine
end

