-- ==== Sys2Proof/Machine/Command.lean ====
section
/-! DEFINITION. The five host commands (44_top_level.md R152 to R157). Each is the command accepted in the
phase `s` is in; what comes before (is the word accepted, is it legal) is Sequencer.lean's. -/

namespace Sys2Proof.Machine

/-- INIT: open a new digest (R153). Legal in IDLE, ABSORB and DONE; `wr`, `W`, `BLK`, `HEX` and `CAUSE`
are not written (10_state.md R45). -/
def execInit (s : State) : Host.Outcome State Fault Refusal :=
  whenAccepted s <|
    .next (((((s.setHs hinit).setLen 0).setFill 0).setRet .absorb).setSeq .absorb 0 |>.respond 0)

/-- PUSH: append one message byte (R154). Legal in ABSORB. The byte that fills the block calls the block
subroutine with `RET_ABSORB`. `LEN_OVERFLOW` when `LEN` is at its limit (R152 line 5, R183). -/
def execPush (d : Byte) (s : State) : Host.Outcome State Fault Refusal :=
  whenAccepted s <| legalOnlyIn .absorb s <|
    if s.lenAtLimit = true then .next (s.raiseCommand .lenOverflow)
    else
      appendByte s.fill.toNat d s fun s' =>
        (if s.fill = 63 then (s'.setLen (s.len + 8)).callBlock .absorb else s'.setLen (s.len + 8)).respond 0

/-- FINAL: close the message (R155). Legal in ABSORB. -/
def execFinal (s : State) : Host.Outcome State Fault Refusal :=
  whenAccepted s <| legalOnlyIn .absorb s <| .next ((s.setSeq .pad80 0).respond 0)

/-- RDHEX: read one character of the digest (R156). Legal in DONE. -/
def execRdhex (i : BitVec 6) (s : State) : Host.Outcome State Fault Refusal :=
  whenAccepted s <| legalOnlyIn .done s <| .next (s.respond (s.readHex i.toNat))

/-- RDSTAT: read the status (R157). Accepted in every phase; its argument is ignored. -/
def execRdstat (_z : Byte) (s : State) : Host.Outcome State Fault Refusal :=
  .next (s.respond s.status)

end Sys2Proof.Machine
end

