-- ==== Sys2Proof/Machine/Compression.lean ====
section
/-! DEFINITION. The compression pipeline (43_compression.md). -/

namespace Sys2Proof.Machine

/-- INITWR: load the working registers (R140). -/
def execInitwr (s : State) : Host.Outcome State Fault Refusal :=
  .next ((s.setWr s.hs).setSeq .round 0)

/-- ROUND: one round, all eight registers from their values before it (R141). -/
def execRound (t : BitVec 6) (s : State) : Host.Outcome State Fault Refusal :=
  let r := roundFn s.wr (kRead t) (s.readW t)
  .next (if t = 63 then (s.setWr r).setSeq .feedfwd 0 else (s.setWr r).setSeq .round (t + 1))

/-- FEEDFWD: add the working registers into the hash state and return (R142). -/
def execFeedfwd (s : State) : Host.Outcome State Fault Refusal :=
  .next (((s.setHs (Words8.add s.hs s.wr)).setFill 0).setSeq s.ret.target 0)

end Sys2Proof.Machine
end

