-- ==== Sys2Proof/Machine/Padding.lean ====
section
/-! DEFINITION. The message padder (41_padding.md). -/

namespace Sys2Proof.Machine

/-- PAD80: append the flag byte (R120). -/
def execPad80 (s : State) : Host.Outcome State Fault Refusal :=
  appendByte s.fill.toNat 0x80 s fun s' => s'.setSeq .padz 0

/-- PADZ: append a zero byte, or branch (R121). -/
def execPadz (s : State) : Host.Outcome State Fault Refusal :=
  if s.fill = 64 then .next (s.callBlock .padz)
  else if s.fill = 56 then .next (s.setSeq .padlen 0)
  else appendByte s.fill.toNat 0x00 s fun s' => s'

/-- PADLEN: append byte `t` of the length; the last one calls the block subroutine (R122). -/
def execPadlen (t : BitVec 3) (s : State) : Host.Outcome State Fault Refusal :=
  appendByte (56 + t.toNat) (lenByte s.len t.toNat) s fun s' =>
    if t = 7 then s'.callBlock .render else s'.setSeq .padlen (t.setWidth 6 + 1)

end Sys2Proof.Machine
end

