-- ==== Sys2Proof/Machine/Render.lean ====
section
/-! DEFINITION. The hex renderer (44_top_level.md R165). -/

namespace Sys2Proof.Machine

/-- Character `t` of the digest string of eight words: nibble `t mod 8` of word `t div 8` (20_memory.md
R58, 40_primitives.md R111). -/
def hexDigit (v : Words8) (t : BitVec 6) : Byte :=
  hexchar (nibble (v.get ⟨t.toNat / 8, by have := t.isLt; omega⟩) (t.toNat % 8))

/-- RENDER: produce character `t` of the digest string (R165). -/
def execRender (t : BitVec 6) (s : State) : Host.Outcome State Fault Refusal :=
  let s' := s.writeHex t.toNat (hexDigit s.hs t)
  .next (if t = 63 then s'.setSeq .done 0 else s'.setSeq .render (t + 1))

end Sys2Proof.Machine
end

