-- ==== Sys2Proof/Machine/Schedule.lean ====
section
/-! DEFINITION. The message schedule expander (42_schedule.md). -/

namespace Sys2Proof.Machine

/-- LOADW: load schedule word `t` from the block (R130). `BLOCK_SIZE` fault at `t` = 0 when `FILL` ≠ 64
(60_exceptions.md R184). -/
def execLoadw (t : BitVec 4) (s : State) : Host.Outcome State Fault Refusal :=
  if t = 0 ∧ s.fill ≠ 64 then .next (s.raise .blockSize)
  else
    let v := s.readBlkWord (4 * t.toNat)
    .next (if t = 15 then (s.writeW (t.setWidth 6) v).setSeq .expand 16
      else (s.writeW (t.setWidth 6) v).setSeq .loadw (t.setWidth 6 + 1))

/-- EXPAND: derive schedule word `t` from earlier words (R131). Below 16 there is no such micro-operation
(30_encoding.md R79; 93_implementation_defined.md U3, entry 7). -/
def execExpand (t : BitVec 6) (s : State) : Host.Outcome State Fault Refusal :=
  if t.toNat < 16 then .refused .seqUnreachable
  else
    let v := scheduleFn (s.readW (t - 16)) (s.readW (t - 15)) (s.readW (t - 7)) (s.readW (t - 2))
    .next (if t = 63 then (s.writeW t v).setSeq .initwr 0 else (s.writeW t v).setSeq .expand (t + 1))

end Sys2Proof.Machine
end

