-- ==== Sys2Proof/Machine/Wait.lean ====
section
/-! DEFINITION. The four wait states (44_top_level.md R160 to R163): the sequencer does nothing there and
the state is unchanged (30_encoding.md R74; entry 19). -/

namespace Sys2Proof.Machine

/-- IDLE (R160). -/
def execIdle (s : State) : Host.Outcome State Fault Refusal := .next s

/-- ABSORB (R161). -/
def execAbsorb (s : State) : Host.Outcome State Fault Refusal := .next s

/-- DONE (R162). -/
def execDone (s : State) : Host.Outcome State Fault Refusal := .next s

/-- ERROR (R163): nothing, for good. -/
def execError (_t : BitVec 6) (s : State) : Host.Outcome State Fault Refusal := .next s

end Sys2Proof.Machine
end

