-- ==== Sys2Proof/Machine/Dispatch.lean ====
section
/-! DEFINITION. One arm per instruction. -/

namespace Sys2Proof.Machine

/-- The meaning of an instruction. -/
def exec (i : Instr) (s : State) : Host.Outcome State Fault Refusal :=
  match i with
  -- commands
  | .init => Sys2Proof.Machine.execInit s
  | .push d => Sys2Proof.Machine.execPush d s
  | .final => Sys2Proof.Machine.execFinal s
  | .rdhex n => Sys2Proof.Machine.execRdhex n s
  | .rdstat z => Sys2Proof.Machine.execRdstat z s
  -- the sequencer
  | .idle => Sys2Proof.Machine.execIdle s
  | .absorb => Sys2Proof.Machine.execAbsorb s
  | .pad80 => Sys2Proof.Machine.execPad80 s
  | .padz => Sys2Proof.Machine.execPadz s
  | .padlen t => Sys2Proof.Machine.execPadlen t s
  | .loadw t => Sys2Proof.Machine.execLoadw t s
  | .expand t => Sys2Proof.Machine.execExpand t s
  | .initwr => Sys2Proof.Machine.execInitwr s
  | .round t => Sys2Proof.Machine.execRound t s
  | .feedfwd => Sys2Proof.Machine.execFeedfwd s
  | .render t => Sys2Proof.Machine.execRender t s
  | .done => Sys2Proof.Machine.execDone s
  | .error t => Sys2Proof.Machine.execError t s

end Sys2Proof.Machine
end

