-- ==== Sys2Proof/Machine/Sequencer.lean ====
section
/-! DEFINITION. One clock edge (30_encoding.md R70, R73, R74): which word is accepted, which
micro-operation `SEQ` selects, and in what order they happen. -/

namespace Sys2Proof.Machine

/-- The value of the 10-bit register (R78). -/
def Seq.word (q : Seq) : BitVec 10 := seqWord q.phase.code q.t

/-- The register holding this 10-bit value, if its phase is a named one. -/
def Seq.ofWord (w : BitVec 10) : Option Seq :=
  match Phase.ofCode (seqPhase w) with
  | some p => some ⟨p, seqIndex w⟩
  | none => none

/-- What the sequencer does by itself: the micro-operation or wait state that `SEQ` selects (R79). A
value of `SEQ` that selects none is refused (93_implementation_defined.md U3, entry 7). -/
def sequencerStep (s : State) : Host.Outcome State Fault Refusal :=
  match decodeSeq s.seq.word with
  | .ok i => exec i s
  | .error _ => .refused .seqUnreachable

/-- An accepted command word: the command it stands for, or the treatment of an illegal word
(44_top_level.md R152, R188). -/
def runCommandWord (w : BitVec 12) (s : State) : Host.Outcome State Fault Refusal :=
  match decodeCommand w with
  | .ok i => exec i s
  | .error _ => illegalCommand s

/-- After an accepted command: in a busy phase the micro-operation of the same step (R74; only RDSTAT is
accepted there, and it sees the state before the micro-operation), else nothing. -/
def afterCommand (before : Phase) (s : State) : Host.Outcome State Fault Refusal :=
  if before.isBusy = true then sequencerStep s else .next s

/-- One step (R74): the reset step if `rst` = 1; else the accepted command if there is one, and the
sequencer's micro-operation if the phase is busy. -/
def clockStep (s : State) : Host.Outcome State Fault Refusal :=
  if s.rst = true then .next (s.setInput s.nextInput).resetStep
  else
    match s.acceptedWord with
    | some w => andThen (runCommandWord w s.beginStep) (afterCommand s.seq.phase)
    | none => sequencerStep s.beginStep

/-! ### Where a word is placed so that the next step runs it -/

/-- The command word is presented at the next step. In a busy phase it would be held, or run beside a
micro-operation, so `SEQ` is then set to the wait state of reset (entry 11). -/
def State.presentNext (s : State) (w : BitVec 12) : State :=
  let s' := s.setInput (.present w :: s.input)
  if s.seq.phase.isWait = true then s' else s'.setSeq .idle 0

/-- `SEQ` holds the value at the next step, in which the host presents nothing (entry 11). A value with a
reserved phase cannot be held. -/
def State.selectNext (s : State) (w : BitVec 10) : State :=
  match Seq.ofWord w with
  | some q => (s.setInput (.quiet :: s.input)).setSeq q.phase q.t
  | none => s

/-- The word placed in its format. -/
def State.placeWord (s : State) (raw : RawWord) : State :=
  match raw with
  | .cmd w => s.presentNext w
  | .seq w => s.selectNext w

end Sys2Proof.Machine
end

