-- ==== Sys2Proof/Machine/Step.lean ====
section
/-! DEFINITION. The step of the machine, and the placement of a word for the next step. -/

namespace Sys2Proof.Machine

/-- One step of the engine: one clock edge (30_encoding.md R70, R74). -/
def step (s : State) : Host.Outcome State Fault Refusal := clockStep s

/-- The state with a word of spec/opcode_table.json placed where the next step takes its instruction
from: on the command port for format C, in `SEQ` for format U (entries 8, 11). -/
def State.withFetchWord (s : State) (nbits w : Nat) : State :=
  match tableReading nbits w with
  | some raw => s.placeWord raw
  | none => s

end Sys2Proof.Machine
end

