-- ==== Sys2Proof/Machine/Reference.lean ====
section
/-! DEFINITION. The reference functions of 40_primitives.md R106 to R112, pure functions on byte and word
sequences, for statements to compare the machine with. No instruction calls them. They are total: what
they give outside the domain of their rule is the model's choice (entry 20). -/

namespace Sys2Proof.Machine

/-- The number of zero bytes `pad` appends: `(55 - len(M)) mod 64` (R106), for a message of `n` bytes. -/
def padZeros (n : Nat) : Nat := (119 - n % 64) % 64

/-- `L`: the bit length `8 n` as a big-endian 8-byte integer (R106), for `n` < 2^61. From 2^61 on R106 defines
nothing and the bit length is taken modulo 2^64: DESIGN CHOICE (entry 20). -/
def lengthField (n : Nat) : List Byte :=
  (List.range 8).map fun t => lenByte (BitVec.ofNat 64 (8 * n)) t

/-- `pad(M)` (R106), for `M` of fewer than 2^61 bytes. For a longer `M` R106 does not define it, and the value
here is the model's: DESIGN CHOICE (entry 20). -/
def pad (m : List Byte) : List Byte :=
  m ++ [0x80] ++ List.replicate (padZeros m.length) 0x00 ++ lengthField m.length

/-- The first `n` words of the schedule of a block: `be32` of the four bytes for an index below 16, else
the words 16, 15, 7 and 2 places before (R108). -/
def scheduleWords (b : List Byte) : Nat → List Word
  | 0 => []
  | n + 1 =>
    let ws := scheduleWords b n
    ws ++ [if n < 16 then
        be32 (b.getD (4 * n) 0) (b.getD (4 * n + 1) 0) (b.getD (4 * n + 2) 0) (b.getD (4 * n + 3) 0)
      else
        scheduleFn (ws.getD (n - 16) 0) (ws.getD (n - 15) 0) (ws.getD (n - 7) 0) (ws.getD (n - 2) 0)]

/-- `expand(B)`, for `B` of 64 bytes (R108); a missing byte of a shorter `B` counts as 0, a choice of the
model's (entry 20). -/
def expandRef (b : List Byte) : List Word := scheduleWords b 64

/-- `r_n`, the working registers after `n` rounds from `r_0` = `S` (R110). -/
def roundsRef (s : Words8) (w : List Word) : Nat → Words8
  | 0 => s
  | n + 1 => roundFn (roundsRef s w n) (kRead (BitVec.ofNat 6 n)) (w.getD n 0)

/-- `compress(S, w)` (R110). -/
def compressRef (s : Words8) (w : List Word) : Words8 := Words8.add s (roundsRef s w 64)

/-- `hexrender(S)` (R111). -/
def hexRef (s : Words8) : List Byte := (List.range 64).map fun i => hexDigit s (BitVec.ofNat 6 i)

/-- `P[64j .. 64j+63]`, block `j` of a padded message (R112). -/
def blockOf (p : List Byte) (j : Nat) : List Byte := (p.drop (64 * j)).take 64

/-- `S_j`, the state after the first `j` blocks of the padded message (R112). -/
def chainRef (p : List Byte) : Nat → Words8
  | 0 => hinit
  | j + 1 => compressRef (chainRef p j) (expandRef (blockOf p j))

/-- `sha256_ref(M)`, for `M` of fewer than 2^61 bytes (R112); for a longer one see entry 20. -/
def sha256Ref (m : List Byte) : List Byte := hexRef (chainRef (pad m) ((pad m).length / 64))

end Sys2Proof.Machine
end

