-- ==== Sys2Proof/Machine/Script.lean ====
section
/-! DEFINITION. Host scripts (30_encoding.md R84, R85) as host input, and runs of the machine
(00_scope.md R16). The syntax has no meaning to the hardware; what is kept of it is the words. -/

namespace Sys2Proof.Machine

/-- The 12-bit word of a command. -/
def commandWord (i : Instr) : BitVec 12 :=
  match encode i with
  | .cmd w => w
  | .seq _ => 0

/-- One line of a script: a command presented until it is accepted (R84). -/
def line (i : Instr) : HostAct := .present (commandWord i)

/-- `.word <w>`: any 12-bit word (R84). -/
def wordLine (w : BitVec 12) : HostAct := .present w

/-- `.reset`: one reset step (R84). -/
def resetLine : HostAct := .reset

/-- `PUSHS`: one PUSH for each byte, in order (R85). -/
def pushS (m : List Byte) : List HostAct := m.map fun d => line (.push d)

/-- `PUSHN <byte>, <count>` (R85). -/
def pushN (d : Byte) (n : Nat) : List HostAct := List.replicate n (line (.push d))

/-- `RDDIGEST`: `RDHEX 0` to `RDHEX 63` (R85). -/
def rdDigest : List HostAct := (List.range 64).map fun i => line (.rdhex (BitVec.ofNat 6 i))

/-- `DIGEST`: INIT, the bytes of the message, FINAL, and the 64 reads (R85, R17). -/
def digestScript (m : List Byte) : List HostAct :=
  [line .init] ++ pushS m ++ [line .final] ++ rdDigest

/-- `n` steps of the machine, stopping at the first fault or refusal. -/
def runSteps : Nat → State → Host.Outcome State Fault Refusal
  | 0, s => .next s
  | n + 1, s => andThen (step s) (runSteps n)

/-- The response on the port in the last step, if there is one. -/
def State.response (s : State) : List Byte := if s.rspValid = true then [s.rsp] else []

/-- The responses the host receives in `n` steps, in order: `rsp` of the steps with `rsp_valid` = 1
(30_encoding.md R71). None after a stop. -/
def responses : Nat → State → List Byte
  | 0, _ => []
  | n + 1, s =>
    match step s with
    | .next t => t.response ++ responses n t
    | .fault _ => []
    | .refused _ => []

/-- A run of a script is over: every line has been taken and the phase is a wait phase (R16). -/
def State.runOver (s : State) : Bool := s.input.isEmpty && s.seq.phase.isWait

end Sys2Proof.Machine
end

