-- ==== Sys2Proof/Safety.lean ====
section
/-! DEFINITION. What claims are stated with: the invariant of reachable states (10_state.md R24, R29,
R31, R39 to R41, R43), which instruction stores where, and the transition relation of `SEQ`
(30_encoding.md R81). -/

namespace Sys2Proof.Machine

/-- The legal pairs of `SEQ` (10_state.md R24). -/
def Seq.legal (q : Seq) : Bool :=
  match q.phase with
  | .idle => decide (q.t = 0)
  | .absorb => decide (q.t = 0)
  | .pad80 => decide (q.t = 0)
  | .padz => decide (q.t = 0)
  | .padlen => decide (q.t.toNat ≤ 7)
  | .loadw => decide (q.t.toNat ≤ 15)
  | .expand => decide (16 ≤ q.t.toNat)
  | .initwr => decide (q.t = 0)
  | .round => true
  | .feedfwd => decide (q.t = 0)
  | .render => true
  | .done => decide (q.t = 0)
  | .error => true

/-- The phases of the block subroutine (30_encoding.md R82). -/
def Phase.inBlock : Phase → Bool
  | .loadw => true
  | .expand => true
  | .initwr => true
  | .round => true
  | .feedfwd => true
  | .idle => false
  | .absorb => false
  | .pad80 => false
  | .padz => false
  | .padlen => false
  | .render => false
  | .done => false
  | .error => false

/-- The bytes at addresses 0 to `n - 1` hold values. -/
def Memory.filledTo (m : Memory) (n : Nat) : Prop := ∀ a, a < n → (Memory.read m a).isSome = true

/-- The invariant of the states that can be reached (10_state.md section 8). -/
structure Inv (s : State) : Prop where
  /-- `BLK` keeps its canonical form. -/
  blkWf : Memory.wf s.blk = true
  /-- `HEX` keeps its canonical form. -/
  hexWf : Memory.wf s.hex = true
  /-- R24. -/
  seqLegal : s.seq.legal = true
  /-- R31: `CAUSE` ≠ 0 exactly when `phase` = ERROR. -/
  causeError : s.cause ≠ .noFault ↔ s.seq.phase = .error
  /-- R41, R30: `LEN` is a multiple of 8. -/
  lenBytes : s.len.toNat % 8 = 0
  /-- R29: `FILL` is 0 to 64. -/
  fillBound : s.fill.toNat ≤ 64
  /-- R29, R43: the bytes `BLK[0..FILL-1]` have been written. -/
  blkFilled : Memory.filledTo s.blk s.fill.toNat
  /-- R39. -/
  absorb : s.seq.phase = .absorb → s.fill.toNat = s.len.toNat / 8 % 64 ∧ s.ret = .absorb
  /-- R120: on entry to PAD80 the block is not full. -/
  pad80 : s.seq.phase = .pad80 → s.fill.toNat ≤ 63
  /-- R122: `FILL` = 56 + t in PADLEN. -/
  padlen : s.seq.phase = .padlen → s.fill.toNat = 56 + s.seq.t.toNat
  /-- R40: the block is full throughout the block subroutine. When it returns to ABSORB, the message so
  far is a whole number of blocks. -/
  block : Phase.inBlock s.seq.phase = true →
    s.fill.toNat = 64 ∧ (s.ret = .absorb → s.len.toNat % 512 = 0)
  /-- R165: in RENDER the characters before `t` have been written. -/
  render : s.seq.phase = .render → Memory.filledTo s.hex s.seq.t.toNat
  /-- R43: in DONE all 64 characters have been written. -/
  done : s.seq.phase = .done → Memory.filledTo s.hex 64

/-! ### Where instructions store -/

/-- The address of `BLK` an instruction writes, if it writes one (20_memory.md R50, R53). -/
def blkStore (i : Instr) (s : State) : Option Nat :=
  match i with
  | .push _ =>
    if s.seq.phase = .absorb ∧ s.lenAtLimit = false then some s.fill.toNat else none
  | .pad80 => some s.fill.toNat
  | .padz => if s.fill = 64 ∨ s.fill = 56 then none else some s.fill.toNat
  | .padlen t => some (56 + t.toNat)
  | .init => none
  | .final => none
  | .rdhex _ => none
  | .rdstat _ => none
  | .idle => none
  | .absorb => none
  | .loadw _ => none
  | .expand _ => none
  | .initwr => none
  | .round _ => none
  | .feedfwd => none
  | .render _ => none
  | .done => none
  | .error _ => none

/-- The address of `HEX` an instruction writes, if it writes one (R50). -/
def hexStore (i : Instr) : Option Nat :=
  match i with
  | .render t => some t.toNat
  | .init => none
  | .push _ => none
  | .final => none
  | .rdhex _ => none
  | .rdstat _ => none
  | .idle => none
  | .absorb => none
  | .pad80 => none
  | .padz => none
  | .padlen _ => none
  | .loadw _ => none
  | .expand _ => none
  | .initwr => none
  | .round _ => none
  | .feedfwd => none
  | .done => none
  | .error _ => none

/-- The word of `W` an instruction writes, if it writes one (R50). -/
def scheduleStore (i : Instr) : Option (BitVec 6) :=
  match i with
  | .loadw t => some (t.setWidth 6)
  | .expand t => some t
  | .init => none
  | .push _ => none
  | .final => none
  | .rdhex _ => none
  | .rdstat _ => none
  | .idle => none
  | .absorb => none
  | .pad80 => none
  | .padz => none
  | .padlen _ => none
  | .initwr => none
  | .round _ => none
  | .feedfwd => none
  | .render _ => none
  | .done => none
  | .error _ => none

/-- The state after a fault of cause `c` by a command of this step, spelled out (60_exceptions.md R186). -/
def State.faultedBy (s : State) (c : Cause) : State :=
  { s with cause := c, seq := ⟨.error, s.seq.t⟩, rspValid := true, rsp := 0 }

/-- Neither a step in which nothing is presented nor a status read. -/
def HostAct.isScriptLine : HostAct → Bool
  | .present w => decide (cmdOp w ≠ 5)
  | .offer w => decide (cmdOp w ≠ 5)
  | .quiet => false
  | .reset => true

/-! ### Events and the transition relation of `SEQ` (30_encoding.md R81) -/

/-- The word accepted at this step is this command. -/
def State.accepts (s : State) (i : Instr) : Prop :=
  s.rst = false ∧ ∃ w, s.acceptedWord = some w ∧ decodeCommand w = .ok i

/-- A word accepted at this step is illegal, or not legal in the phase, or a PUSH past the limit of `LEN`
(44_top_level.md R152 lines 3 to 5). -/
def State.commandFaults (s : State) : Prop :=
  s.rst = false ∧ ∃ w, s.acceptedWord = some w ∧
    ((∃ r, decodeCommand w = .error r) ∨
     (∃ d, decodeCommand w = .ok (.push d) ∧ (s.seq.phase ≠ .absorb ∨ s.lenAtLimit = true)) ∨
     (decodeCommand w = .ok .final ∧ s.seq.phase ≠ .absorb) ∨
     (∃ i, decodeCommand w = .ok (.rdhex i) ∧ s.seq.phase ≠ .done))

/-- The rows of R81: from `s` by one step to a state whose `SEQ` is `q` (and, for a call of the block
subroutine, whose `RET` is `r`). -/
inductive SeqArrow (s : State) : Seq → Ret → Prop where
  | reset : s.rst = true → SeqArrow s ⟨.idle, 0⟩ .absorb
  | init : s.accepts .init → s.seq.phase ∈ [.idle, .absorb, .done] → SeqArrow s ⟨.absorb, 0⟩ .absorb
  | push (d : Byte) : s.accepts (.push d) → s.seq.phase = .absorb → s.fill.toNat < 63 →
      s.lenAtLimit = false → SeqArrow s s.seq s.ret
  | pushFull (d : Byte) : s.accepts (.push d) → s.seq.phase = .absorb → s.fill = 63 →
      s.lenAtLimit = false → SeqArrow s ⟨.loadw, 0⟩ .absorb
  | final : s.accepts .final → s.seq.phase = .absorb → SeqArrow s ⟨.pad80, 0⟩ s.ret
  | rdhex (i : BitVec 6) : s.accepts (.rdhex i) → s.seq.phase = .done → SeqArrow s s.seq s.ret
  | rdstat (z : Byte) : s.accepts (.rdstat z) → s.seq.phase.isWait = true → SeqArrow s s.seq s.ret
  | commandFault : s.commandFaults → s.seq.phase ∈ [.idle, .absorb, .done] →
      SeqArrow s ⟨.error, s.seq.t⟩ s.ret
  | error : s.rst = false → s.seq.phase = .error → SeqArrow s s.seq s.ret
  | nothing : s.rst = false → s.acceptedWord = none → s.seq.phase.isWait = true →
      SeqArrow s s.seq s.ret
  | pad80 : s.rst = false → s.seq.phase = .pad80 → SeqArrow s ⟨.padz, 0⟩ s.ret
  | padzFull : s.rst = false → s.seq.phase = .padz → s.fill = 64 → SeqArrow s ⟨.loadw, 0⟩ .padz
  | padzLength : s.rst = false → s.seq.phase = .padz → s.fill = 56 → SeqArrow s ⟨.padlen, 0⟩ s.ret
  | padzMore : s.rst = false → s.seq.phase = .padz → s.fill ≠ 64 → s.fill ≠ 56 →
      SeqArrow s ⟨.padz, 0⟩ s.ret
  | padlen : s.rst = false → s.seq.phase = .padlen → s.seq.t.toNat < 7 →
      SeqArrow s ⟨.padlen, s.seq.t + 1⟩ s.ret
  | padlenLast : s.rst = false → s.seq.phase = .padlen → s.seq.t = 7 → SeqArrow s ⟨.loadw, 0⟩ .render
  | loadwFault : s.rst = false → s.seq.phase = .loadw → s.seq.t = 0 → s.fill ≠ 64 →
      SeqArrow s ⟨.error, 0⟩ s.ret
  | loadw : s.rst = false → s.seq.phase = .loadw → (s.seq.t = 0 → s.fill = 64) → s.seq.t.toNat < 15 →
      SeqArrow s ⟨.loadw, s.seq.t + 1⟩ s.ret
  | loadwLast : s.rst = false → s.seq.phase = .loadw → s.seq.t = 15 → SeqArrow s ⟨.expand, 16⟩ s.ret
  | expand : s.rst = false → s.seq.phase = .expand → s.seq.t.toNat < 63 →
      SeqArrow s ⟨.expand, s.seq.t + 1⟩ s.ret
  | expandLast : s.rst = false → s.seq.phase = .expand → s.seq.t = 63 → SeqArrow s ⟨.initwr, 0⟩ s.ret
  | initwr : s.rst = false → s.seq.phase = .initwr → SeqArrow s ⟨.round, 0⟩ s.ret
  | round : s.rst = false → s.seq.phase = .round → s.seq.t.toNat < 63 →
      SeqArrow s ⟨.round, s.seq.t + 1⟩ s.ret
  | roundLast : s.rst = false → s.seq.phase = .round → s.seq.t = 63 → SeqArrow s ⟨.feedfwd, 0⟩ s.ret
  | feedfwdAbsorb : s.rst = false → s.seq.phase = .feedfwd → s.ret = .absorb →
      SeqArrow s ⟨.absorb, 0⟩ s.ret
  | feedfwdPadz : s.rst = false → s.seq.phase = .feedfwd → s.ret = .padz → SeqArrow s ⟨.padz, 0⟩ s.ret
  | feedfwdRender : s.rst = false → s.seq.phase = .feedfwd → s.ret = .render →
      SeqArrow s ⟨.render, 0⟩ s.ret
  | render : s.rst = false → s.seq.phase = .render → s.seq.t.toNat < 63 →
      SeqArrow s ⟨.render, s.seq.t + 1⟩ s.ret
  | renderLast : s.rst = false → s.seq.phase = .render → s.seq.t = 63 → SeqArrow s ⟨.done, 0⟩ s.ret

end Sys2Proof.Machine
end

