-- ==== Sys2Proof/Certificates/Slice0/Obligations.lean ====
section
/-! DEFINITION. The statements about the machine. Each docstring names the rules of spec/ it formalises. -/

open Sys2Proof Sys2Proof.Machine

/-! ### Encoding -/

/-- Words written out from the encodings of 30_encoding.md R75, R79 and R84 decode to the instructions
they stand for, and the all-zero command word and a reserved phase are rejected. -/
def Obligations.WrittenOutWordsDecode : Prop :=
  decodeCommand 0b000100000000 = .ok .init ∧
  decodeCommand 0b001001100001 = .ok (.push 0x61) ∧
  decodeCommand 0b001100000000 = .ok .final ∧
  decodeCommand 0b010000111111 = .ok (.rdhex 63) ∧
  decodeCommand 0b010111111111 = .ok (.rdstat 0xFF) ∧
  decodeCommand 0b000000000000 = .error .reservedOpcode ∧
  decodeSeq 0b0010000000 = .ok .pad80 ∧
  decodeSeq 0b0100000111 = .ok (.padlen 7) ∧
  decodeSeq 0b0101001111 = .ok (.loadw 15) ∧
  decodeSeq 0b0110010000 = .ok (.expand 16) ∧
  decodeSeq 0b1000111111 = .ok (.round 63) ∧
  decodeSeq 0b1001000000 = .ok .feedfwd ∧
  decodeSeq 0b1010000101 = .ok (.render 5) ∧
  decodeSeq 0b1011000000 = .ok .done ∧
  decodeSeq 0b1111010101 = .ok (.error 21) ∧
  decodeSeq 0b1100000000 = .error .reservedPhase

/-- Decoding the encoding of an instruction gives the instruction back, for every instruction of both
formats and every value of its operands. -/
def Obligations.DecodeInvertsEncode : Prop :=
  ∀ i : Instr, decode (encode i) = .ok i

/-- A word that decodes is the encoding of what it decodes to: each instruction has exactly one word. -/
def Obligations.EncodeInvertsDecode : Prop :=
  ∀ (raw : RawWord) (i : Instr), decode raw = .ok i → encode i = raw

/-- The decoder selects by the match and mask columns of spec/opcode_table.json: a word decodes to an
instruction of a row exactly when the row covers it. -/
def Obligations.DecoderFollowsTheOpcodeTable : Prop :=
  ∀ raw : RawWord,
    (∀ i, decode raw = .ok i → i.row ∈ opcodeTable ∧ i.row.covers raw = true) ∧
    (∀ r ∈ opcodeTable, r.covers raw = true → ∃ i, decode raw = .ok i ∧ i.row = r)

/-! ### The step -/

/-- A step runs the decoded instruction: the accepted command in a wait phase, else what `SEQ` selects,
each on the state in which the last response is cleared and the host's queue has moved on. -/
def Obligations.StepRunsTheDecodedInstruction : Prop :=
  ∀ (s : State) (i : Instr), s.rst = false →
    (∀ w, s.acceptedWord = some w → s.seq.phase.isWait = true → decodeCommand w = .ok i →
      step s = exec i { s with rspValid := false, rsp := 0, input := s.nextInput }) ∧
    (s.acceptedWord = none → decodeSeq s.seq.word = .ok i →
      step s = exec i { s with rspValid := false, rsp := 0, input := s.nextInput })

/-- One thing per step (30_encoding.md R74): (1) the reset step alone; (2) an accepted command; (3) in a
busy phase one micro-operation; (2) and (3) coincide only for RDSTAT, whose response comes from the
state before the micro-operation; in a wait phase with nothing accepted, nothing. -/
def Obligations.OneThingPerStep : Prop :=
  ∀ s : State,
    (s.rst = true → step s = .next { s.resetStep with input := s.nextInput }) ∧
    (∀ w, s.rst = false → s.acceptedWord = some w → s.seq.phase.isBusy = true → cmdOp w = 5 ∧
      ∀ i, decodeSeq s.seq.word = .ok i →
        step s = exec i { s with rspValid := true, rsp := s.status, input := s.nextInput }) ∧
    (∀ i, s.rst = false → s.acceptedWord = none → s.seq.phase.isBusy = true →
      decodeSeq s.seq.word = .ok i →
      step s = exec i { s with rspValid := false, rsp := 0, input := s.nextInput }) ∧
    (∀ w, s.rst = false → s.acceptedWord = some w → s.seq.phase.isWait = true →
      step s = runCommandWord w { s with rspValid := false, rsp := 0, input := s.nextInput }) ∧
    (s.rst = false → s.acceptedWord = none → s.seq.phase.isWait = true → s.seq.legal = true →
      step s = .next { s with rspValid := false, rsp := 0, input := s.nextInput })

/-- The hold (30_encoding.md R73): a word other than RDSTAT presented in a busy phase is not accepted and
stays presented, and the step is the one in which nothing is presented; a word withdrawn after one
step leaves no trace. -/
def Obligations.HeldWordHasNoEffect : Prop :=
  ∀ (s : State) (w : BitVec 12) (l : List HostAct), s.seq.phase.isBusy = true → cmdOp w ≠ 5 →
    step { s with input := .present w :: l } = step { s with input := .quiet :: .present w :: l } ∧
    step { s with input := .offer w :: l } = step { s with input := .quiet :: l }

/-- `rsp_valid` is 1 in exactly the steps at which a command is accepted, and `rsp` is 0 otherwise
(30_encoding.md R71). -/
def Obligations.ResponseExactlyWhenAccepted : Prop :=
  ∀ s t : State, step s = .next t →
    (t.rspValid = true ↔ s.rst = false ∧ s.acceptedWord.isSome = true) ∧
    (t.rspValid = false → t.rsp = 0)

/-- A status read disturbs nothing: with RDSTAT presented the step leaves what it leaves with nothing
presented, but for the response, which is `STATUS` (44_top_level.md R157, 30_encoding.md R74). -/
def Obligations.StatusReadDisturbsNothing : Prop :=
  ∀ (s t : State) (w : BitVec 12) (l : List HostAct), s.seq.legal = true → cmdOp w = 5 →
    step { s with input := .present w :: l } = .next t →
    step { s with input := .quiet :: l } = .next { t with rspValid := false, rsp := 0 } ∧
    t.rspValid = true ∧ t.rsp = s.status

/-! ### The commands -/

/-- INIT (44_top_level.md R153): `Hs` becomes `HINIT`, `LEN`, `FILL` and `RET` zero, `SEQ` `(ABSORB, 0)`,
the response `0x00`, and nothing else changes; a non-zero `arg` is `ILLEGAL_CMD`; in ERROR it has no
effect; while busy it is held. -/
def Obligations.InitOpensADigest : Prop :=
  decodeCommand 0x100 = .ok .init ∧
  ∀ s : State,
    (s.seq.phase ∈ [Phase.idle, Phase.absorb, Phase.done] →
      exec .init s = .next { s with
        hs := ⟨0x6a09e667, 0xbb67ae85, 0x3c6ef372, 0xa54ff53a, 0x510e527f, 0x9b05688c, 0x1f83d9ab,
          0x5be0cd19⟩,
        len := 0, fill := 0, ret := .absorb, seq := ⟨.absorb, 0⟩, rspValid := true, rsp := 0 }) ∧
    (∀ arg : Byte, arg ≠ 0 → s.seq.phase ∈ [Phase.idle, Phase.absorb, Phase.done] →
      runCommandWord (cmdWord 1 arg) s = .next (s.faultedBy .illegalCmd)) ∧
    (s.seq.phase = .error → exec .init s = .next { s with rspValid := true, rsp := 0 }) ∧
    (s.seq.phase.isBusy = true → ∀ arg, s.cmdReady (cmdWord 1 arg) = false)

/-- PUSH (44_top_level.md R154): the byte goes to `BLK[FILL]`, `LEN` grows by 8, `FILL` by 1, and the byte
that fills the block calls the block subroutine with `RET_ABSORB`; elsewhere `PROTOCOL`, at the limit
of `LEN` `LEN_OVERFLOW`; while busy it is held. -/
def Obligations.PushAppendsAByte : Prop :=
  ∀ (s : State) (d : Byte),
    decodeCommand ((0x2 : BitVec 4) ++ d) = .ok (.push d) ∧
    (s.seq.phase = .absorb → s.len.toNat ≤ 2 ^ 64 - 16 → s.fill.toNat < 63 →
      exec (.push d) s = .next { s with
        blk := Memory.write s.blk s.fill.toNat d, len := s.len + 8, fill := s.fill + 1,
        rspValid := true, rsp := 0 }) ∧
    (s.seq.phase = .absorb → s.len.toNat ≤ 2 ^ 64 - 16 → s.fill = 63 →
      exec (.push d) s = .next { s with
        blk := Memory.write s.blk 63 d, len := s.len + 8, fill := 64, ret := .absorb,
        seq := ⟨.loadw, 0⟩, rspValid := true, rsp := 0 }) ∧
    (s.seq.phase = .absorb → s.len.toNat = 2 ^ 64 - 8 →
      exec (.push d) s = .next (s.faultedBy .lenOverflow)) ∧
    (s.seq.phase ∈ [Phase.idle, Phase.done] → exec (.push d) s = .next (s.faultedBy .protocol)) ∧
    (s.seq.phase.isBusy = true → s.cmdReady (cmdWord 2 d) = false)

/-- FINAL (44_top_level.md R155): `SEQ` becomes `(PAD80, 0)` and nothing else changes; elsewhere
`PROTOCOL`; a non-zero `arg` is `ILLEGAL_CMD`. -/
def Obligations.FinalClosesTheMessage : Prop :=
  decodeCommand 0x300 = .ok .final ∧
  ∀ s : State,
    (s.seq.phase = .absorb →
      exec .final s = .next { s with seq := ⟨.pad80, 0⟩, rspValid := true, rsp := 0 }) ∧
    (s.seq.phase ∈ [Phase.idle, Phase.done] → exec .final s = .next (s.faultedBy .protocol)) ∧
    (∀ arg : Byte, arg ≠ 0 → s.seq.phase ∈ [Phase.idle, Phase.absorb, Phase.done] →
      runCommandWord (cmdWord 3 arg) s = .next (s.faultedBy .illegalCmd))

/-- RDHEX (44_top_level.md R156): in DONE the response is `HEX[i]` and no state changes; elsewhere
`PROTOCOL`; non-zero reserved bits are `ILLEGAL_CMD`. (A byte that nothing has written, of which there is
none in DONE in a reachable state, reads as a free value, log entry 3; a written one as written.) -/
def Obligations.RdhexReadsACharacter : Prop :=
  ∀ (s : State) (i : BitVec 6),
    decodeCommand ((0b010000 : BitVec 6) ++ i) = .ok (.rdhex i) ∧
    (s.seq.phase = .done →
      exec (.rdhex i) s = .next { s with rspValid := true, rsp := s.readHex i.toNat }) ∧
    (∀ b, Memory.read s.hex i.toNat = some b → s.readHex i.toNat = b) ∧
    (s.seq.phase ∈ [Phase.idle, Phase.absorb] →
      exec (.rdhex i) s = .next (s.faultedBy .protocol)) ∧
    (∀ r : BitVec 2, r ≠ 0 → s.seq.phase ∈ [Phase.idle, Phase.absorb, Phase.done] →
      runCommandWord (cmdWord 4 (r ++ i)) s = .next (s.faultedBy .illegalCmd))

/-- RDSTAT (44_top_level.md R157): in every phase, busy ones and ERROR among them, it is accepted at once,
the response is `STATUS`, and no state changes, whatever its argument. -/
def Obligations.RdstatReadsTheStatus : Prop :=
  ∀ (s : State) (z : Byte),
    s.cmdReady (cmdWord 5 z) = true ∧
    decodeCommand (cmdWord 5 z) = .ok (.rdstat z) ∧
    exec (.rdstat z) s = .next { s with rspValid := true, rsp := s.status }

/-- An accepted command does the first of the six lines of 44_top_level.md R152 that applies: RDSTAT; in
ERROR nothing; the faults `ILLEGAL_CMD`, `PROTOCOL`, `LEN_OVERFLOW` in this order, each changing only
`CAUSE` and `SEQ.phase`; else the command's own rule. -/
def Obligations.ChecksAreMadeInTheFixedOrder : Prop :=
  ∀ (s : State) (w : BitVec 12), s.rst = false → s.acceptedWord = some w →
    (cmdOp w = 5 → ∀ t, step s = .next t → t.rspValid = true ∧ t.rsp = s.status) ∧
    (cmdOp w = 5 → s.seq.phase.isWait = true →
      step s = .next { s with rspValid := true, rsp := s.status, input := s.nextInput }) ∧
    (cmdOp w ≠ 5 → s.seq.phase = .error →
      step s = .next { s with rspValid := true, rsp := 0, input := s.nextInput }) ∧
    (s.seq.phase ∈ [Phase.idle, Phase.absorb, Phase.done] →
      ((∃ r, decodeCommand w = .error r) →
        step s = .next { s.faultedBy .illegalCmd with input := s.nextInput }) ∧
      (∀ d, decodeCommand w = .ok (.push d) → s.seq.phase ≠ .absorb →
        step s = .next { s.faultedBy .protocol with input := s.nextInput }) ∧
      (decodeCommand w = .ok .final → s.seq.phase ≠ .absorb →
        step s = .next { s.faultedBy .protocol with input := s.nextInput }) ∧
      (∀ i, decodeCommand w = .ok (.rdhex i) → s.seq.phase ≠ .done →
        step s = .next { s.faultedBy .protocol with input := s.nextInput }) ∧
      (∀ d, decodeCommand w = .ok (.push d) → s.seq.phase = .absorb → s.len.toNat = 2 ^ 64 - 8 →
        step s = .next { s.faultedBy .lenOverflow with input := s.nextInput }) ∧
      (∀ i, decodeCommand w = .ok i →
        i = .init ∨ (∃ d, i = .push d ∧ s.seq.phase = .absorb ∧ s.len.toNat ≠ 2 ^ 64 - 8) ∨
          (i = .final ∧ s.seq.phase = .absorb) ∨ (∃ n, i = .rdhex n ∧ s.seq.phase = .done) →
        step s = exec i { s with rspValid := false, rsp := 0, input := s.nextInput }))

/-- `ILLEGAL_CMD` (60_exceptions.md R181): raised when a word is accepted in IDLE, ABSORB or DONE whose
`op` is `0x0` or `0x6` to `0xF`, or that is INIT or FINAL with `arg` ≠ 0, or RDHEX with `arg[7:6]` ≠ 0,
and in no other case: not in ERROR, not in a busy phase, not for RDSTAT. -/
def Obligations.IllegalWordsRaiseIllegalCmd : Prop :=
  ∀ s t : State, step s = .next t → s.cause ≠ .illegalCmd →
    (t.cause = .illegalCmd ↔
      s.rst = false ∧ s.seq.phase ∈ [Phase.idle, Phase.absorb, Phase.done] ∧
      ∃ w, s.presented = some w ∧
        (w.toNat / 256 = 0 ∨ 6 ≤ w.toNat / 256 ∨
         ((w.toNat / 256 = 1 ∨ w.toNat / 256 = 3) ∧ w.toNat % 256 ≠ 0) ∨
         (w.toNat / 256 = 4 ∧ w.toNat / 64 % 4 ≠ 0)))

/-! ### The wait states -/

/-- In IDLE, ABSORB, DONE and ERROR the sequencer does nothing (44_top_level.md R160 to R163). -/
def Obligations.WaitStatesChangeNothing : Prop :=
  ∀ (s : State) (n : BitVec 6),
    exec .idle s = .next s ∧ exec .absorb s = .next s ∧ exec .done s = .next s ∧
    exec (.error n) s = .next s

/-- ERROR (44_top_level.md R163, 60_exceptions.md R187): every word is accepted; RDSTAT returns
`0x04 + 16 × CAUSE`; every other word, legal or illegal, has no effect and returns `0x00`; nothing
happens by itself; only a reset step leaves ERROR. -/
def Obligations.ErrorIsLeftOnlyByReset : Prop :=
  ∀ s : State, s.seq.phase = .error →
    (∀ w, s.cmdReady w = true) ∧
    (s.rst = false → s.acceptedWord = none →
      step s = .next { s with rspValid := false, rsp := 0, input := s.nextInput }) ∧
    (∀ w, s.rst = false → s.acceptedWord = some w → cmdOp w = 5 →
      step s = .next { s with rspValid := true, rsp := 0x04 + 16 * s.cause.code.setWidth 8,
                              input := s.nextInput }) ∧
    (∀ w, s.rst = false → s.acceptedWord = some w → cmdOp w ≠ 5 →
      step s = .next { s with rspValid := true, rsp := 0, input := s.nextInput }) ∧
    (∀ t, step s = .next t → t.seq.phase ≠ .error → s.rst = true ∧ t.seq = ⟨.idle, 0⟩ ∧ t.cause = .noFault)

/-! ### The micro-operations -/

/-- PAD80 (41_padding.md R120): `0x80` goes to `BLK[FILL]`, `FILL` grows by 1, `SEQ` becomes `(PADZ, 0)`. -/
def Obligations.Pad80AppendsTheFlagByte : Prop :=
  decodeSeq 0b0010000000 = .ok .pad80 ∧
  ∀ s : State, s.fill.toNat ≤ 63 →
    exec .pad80 s = .next { s with
      blk := Memory.write s.blk s.fill.toNat 0x80, fill := s.fill + 1, seq := ⟨.padz, 0⟩ }

/-- PADZ (41_padding.md R121): its three cases. -/
def Obligations.PadzAppendsAZeroOrBranches : Prop :=
  decodeSeq 0b0011000000 = .ok .padz ∧
  ∀ s : State,
    (s.fill = 64 → exec .padz s = .next { s with ret := .padz, seq := ⟨.loadw, 0⟩ }) ∧
    (s.fill = 56 → exec .padz s = .next { s with seq := ⟨.padlen, 0⟩ }) ∧
    (s.fill.toNat ≤ 63 → s.fill ≠ 56 →
      exec .padz s = .next { s with
        blk := Memory.write s.blk s.fill.toNat 0x00, fill := s.fill + 1 })

/-- PADLEN (41_padding.md R122): byte `t` of `LEN`, the most significant first, goes to `BLK[56 + t]`,
`FILL` grows by 1; the last one calls the block subroutine with `RET_RENDER`. -/
def Obligations.PadlenAppendsALengthByte : Prop :=
  ∀ (s : State) (n : BitVec 3), s.fill.toNat ≤ 63 →
    decodeSeq ((0b0100000 : BitVec 7) ++ n) = .ok (.padlen n) ∧
    (n.toNat < 7 → exec (.padlen n) s = .next { s with
      blk := Memory.write s.blk (56 + n.toNat) (BitVec.ofNat 8 (s.len.toNat / 2 ^ (56 - 8 * n.toNat))),
      fill := s.fill + 1, seq := ⟨.padlen, BitVec.ofNat 6 (n.toNat + 1)⟩ }) ∧
    (n.toNat = 7 → exec (.padlen n) s = .next { s with
      blk := Memory.write s.blk 63 (BitVec.ofNat 8 s.len.toNat),
      fill := s.fill + 1, ret := .render, seq := ⟨.loadw, 0⟩ })

/-- LOADW (42_schedule.md R130, 60_exceptions.md R184): the four bytes at `4t`, big-endian, go to `W[t]`;
at `t` = 0 with `FILL` ≠ 64 the `BLOCK_SIZE` fault instead, and nothing else of the step happens. It is the
only fault: the word is loaded whatever `BLK` holds, from bytes nothing has written too. -/
def Obligations.LoadwLoadsAScheduleWord : Prop :=
  ∀ (s : State) (n : BitVec 4),
    decodeSeq ((0b010100 : BitVec 6) ++ n) = .ok (.loadw n) ∧
    (∀ b0 b1 b2 b3 : Byte, (n.toNat = 0 → s.fill = 64) →
      b0 = s.readBlk (4 * n.toNat) → b1 = s.readBlk (4 * n.toNat + 1) →
      b2 = s.readBlk (4 * n.toNat + 2) → b3 = s.readBlk (4 * n.toNat + 3) →
      exec (.loadw n) s = .next { s with
        w := s.w.set (n.setWidth 6).toNat
          (BitVec.ofNat 32 (b0.toNat * 2 ^ 24 + b1.toNat * 2 ^ 16 + b2.toNat * 2 ^ 8 + b3.toNat))
          (n.setWidth 6).isLt,
        seq := if n.toNat = 15 then ⟨.expand, 16⟩ else ⟨.loadw, BitVec.ofNat 6 (n.toNat + 1)⟩ }) ∧
    (n.toNat = 0 → s.fill ≠ 64 →
      exec (.loadw n) s = .next { s with cause := .blockSize, seq := ⟨.error, s.seq.t⟩ })

/-- EXPAND (42_schedule.md R131): `W[t]` from `W[t-16]`, `W[t-15]`, `W[t-7]` and `W[t-2]`. -/
def Obligations.ExpandDerivesAScheduleWord : Prop :=
  ∀ (s : State) (n : BitVec 6) (w16 w15 w7 w2 : Word), 16 ≤ n.toNat →
    s.w[n.toNat - 16]? = some w16 → s.w[n.toNat - 15]? = some w15 →
    s.w[n.toNat - 7]? = some w7 → s.w[n.toNat - 2]? = some w2 →
    decodeSeq ((0b0110 : BitVec 4) ++ n) = .ok (.expand n) ∧
    exec (.expand n) s = .next { s with
      w := s.w.set n.toNat
        (w16 + (rotr w15 7 ^^^ rotr w15 18 ^^^ shr w15 3) + w7 + (rotr w2 17 ^^^ rotr w2 19 ^^^ shr w2 10))
        n.isLt,
      seq := if n.toNat = 63 then ⟨.initwr, 0⟩ else ⟨.expand, BitVec.ofNat 6 (n.toNat + 1)⟩ }

/-- INITWR (43_compression.md R140): the working registers become the hash state. -/
def Obligations.InitwrLoadsTheWorkingRegisters : Prop :=
  decodeSeq 0b0111000000 = .ok .initwr ∧
  ∀ s : State, exec .initwr s = .next { s with wr := s.hs, seq := ⟨.round, 0⟩ }

/-- ROUND (43_compression.md R141): all eight registers from their values before the step, with `K[t]` and
`W[t]`, every addition modulo 2^32. -/
def Obligations.RoundComputesOneRound : Prop :=
  ∀ (s : State) (n : BitVec 6) (a b c d e f g h k x : Word),
    s.wr = ⟨a, b, c, d, e, f, g, h⟩ → k = kRead n → s.w[n.toNat]? = some x →
    ∀ s1 chv t1 s0 majv t2 : Word,
      s1 = rotr e 6 ^^^ rotr e 11 ^^^ rotr e 25 → chv = (e &&& f) ^^^ (~~~e &&& g) →
      t1 = h + s1 + chv + k + x →
      s0 = rotr a 2 ^^^ rotr a 13 ^^^ rotr a 22 → majv = (a &&& b) ^^^ (a &&& c) ^^^ (b &&& c) →
      t2 = s0 + majv →
      decodeSeq ((0b1000 : BitVec 4) ++ n) = .ok (.round n) ∧
      exec (.round n) s = .next { s with
        wr := ⟨t1 + t2, a, b, c, d + t1, e, f, g⟩,
        seq := if n.toNat = 63 then ⟨.feedfwd, 0⟩ else ⟨.round, BitVec.ofNat 6 (n.toNat + 1)⟩ }

/-- FEEDFWD (43_compression.md R142): each working register is added into its word of the hash state,
`FILL` becomes 0, and control goes where `RET` says. -/
def Obligations.FeedfwdAddsAndReturns : Prop :=
  decodeSeq 0b1001000000 = .ok .feedfwd ∧
  ∀ (s : State) (a b c d e f g h a' b' c' d' e' f' g' h' : Word),
    s.hs = ⟨a, b, c, d, e, f, g, h⟩ → s.wr = ⟨a', b', c', d', e', f', g', h'⟩ →
    exec .feedfwd s = .next { s with
      hs := ⟨a + a', b + b', c + c', d + d', e + e', f + f', g + g', h + h'⟩,
      fill := 0,
      seq := ⟨match s.ret with
        | .absorb => .absorb
        | .padz => .padz
        | .render => .render, 0⟩ }

/-- RENDER (44_top_level.md R165): the ASCII code of the lowercase digit of nibble `t mod 8`, the most
significant first, of word `t div 8` of the hash state goes to `HEX[t]`. -/
def Obligations.RenderProducesACharacter : Prop :=
  ∀ (s : State) (n : BitVec 6) (i : Fin 8) (v : Nat), i.val = n.toNat / 8 →
    v = (s.hs.get i).toNat / 2 ^ (28 - 4 * (n.toNat % 8)) % 16 →
    decodeSeq ((0b1010 : BitVec 4) ++ n) = .ok (.render n) ∧
    exec (.render n) s = .next { s with
      hex := Memory.write s.hex n.toNat (BitVec.ofNat 8 (if v ≤ 9 then 0x30 + v else 0x57 + v)),
      seq := if n.toNat = 63 then ⟨.done, 0⟩ else ⟨.render, BitVec.ofNat 6 (n.toNat + 1)⟩ }

/-- Where the model stops, by name: the values of `SEQ` outside 10_state.md R24 and `FILL` > 64, which
93_implementation_defined.md U3 says to refuse, and PUSH, PAD80 and PADLEN at `FILL` = 64, which U3 does
not name: that refusal is the model's choice (log entry 7). R29, R39 and R40 keep runs away from both. -/
def Obligations.StopsAreNamed : Prop :=
  ∀ (s : State) (n : BitVec 6) (l : BitVec 3) (d : Byte),
    (n.toNat < 16 → exec (.expand n) s = .refused .seqUnreachable) ∧
    (63 < s.fill.toNat → exec .pad80 s = .refused .fillUnreachable ∧
      exec (.padlen l) s = .refused .fillUnreachable) ∧
    (64 < s.fill.toNat → exec .padz s = .refused .fillUnreachable) ∧
    (63 < s.fill.toNat → s.seq.phase = .absorb → s.len.toNat ≤ 2 ^ 64 - 16 →
      exec (.push d) s = .refused .fillUnreachable) ∧
    (s.rst = false → s.acceptedWord = none → s.seq.legal = false →
      step s = .refused .seqUnreachable)

/-! ### Faults and status -/

/-- Fault entry (60_exceptions.md R186): a step that enters ERROR writes `CAUSE` and `SEQ.phase`, keeps
`SEQ.t`, answers `0x00` if it was a command, and changes nothing else of the engine; from then on
`err` = 1, `busy` = 0, `done` = 0 and `cause` is the cause. -/
def Obligations.FaultEntryKeepsEverythingElse : Prop :=
  ∀ s t : State, step s = .next t → s.seq.phase ≠ .error → t.seq.phase = .error →
    t = { s with cause := t.cause, seq := ⟨.error, s.seq.t⟩, input := s.nextInput,
                 rspValid := t.rspValid, rsp := t.rsp } ∧
    t.cause ≠ .noFault ∧
    (s.seq.phase.isWait = true → t.rspValid = true ∧ t.rsp = 0) ∧
    t.err = true ∧ t.busy = false ∧ t.done = false ∧ t.causeOut = t.cause.code

/-- `BLOCK_SIZE` cannot happen in a reachable state: at `(LOADW, 0)` `FILL` is 64 (10_state.md R40). -/
def Obligations.BlockSizeFaultIsUnreachable : Prop :=
  ∀ s t : State, Inv s → step s = .next t →
    (s.seq = ⟨.loadw, 0⟩ → s.fill = 64 ∧ Memory.filledTo s.blk 64) ∧
    (s.cause ≠ .blockSize → t.cause ≠ .blockSize)

/-- `STATUS` (10_state.md R33): its fields, and its value in every phase of a reachable state. -/
def Obligations.StatusByPhase : Prop :=
  ∀ s : State,
    s.status.getLsbD 0 = s.seq.phase.isBusy ∧
    s.status.getLsbD 1 = decide (s.seq.phase = .done) ∧
    s.status.getLsbD 2 = decide (s.seq.phase = .error) ∧
    s.status.getLsbD 3 = decide (s.seq.phase = .absorb) ∧
    s.status.extractLsb' 4 3 = s.cause.code ∧
    s.status.getLsbD 7 = false ∧
    (Inv s →
      (s.seq.phase = .idle → s.status = 0x00) ∧
      (s.seq.phase = .absorb → s.status = 0x08) ∧
      (s.seq.phase.isBusy = true → s.status = 0x01) ∧
      (s.seq.phase = .done → s.status = 0x02) ∧
      (s.seq.phase = .error → s.status = 0x04 + 16 * s.cause.code.setWidth 8))

/-- At most one of BUSY, DONE, ERR and ACTIVE is 1 at a time, and all four are 0 exactly in IDLE
(10_state.md R27). -/
def Obligations.AtMostOneStatusFlag : Prop :=
  ∀ s : State,
    ([s.busy, s.done, s.err, s.active].count true ≤ 1) ∧
    ([s.busy, s.done, s.err, s.active].count true = 0 ↔ s.seq.phase = .idle)

/-! ### Reset -/

/-- The reset step (70_reset_and_hazards.md R200), whatever the phase and whatever is presented. Of `Hs`,
`wr`, `W`, `BLK` and `HEX` afterwards nothing is said. Nothing else leaves ERROR or clears `CAUSE`. -/
def Obligations.ResetStepClearsTheControlState : Prop :=
  ∀ s : State,
    (s.rst = true →
      ∃ t, step s = .next t ∧ t.seq = ⟨.idle, 0⟩ ∧ t.ret.code = 0 ∧ t.fill = 0 ∧ t.len = 0 ∧
        t.cause.code = 0 ∧ t.rspValid = false ∧ t.rsp = 0 ∧ t.input = s.input.tail) ∧
    (s.rst = false → ∀ t, step s = .next t →
      (s.seq.phase = .error → t.seq.phase = .error) ∧ (s.cause.code ≠ 0 → t.cause.code ≠ 0))

/-- The state after reset (10_state.md R44): the values the spec gives, and the outputs. -/
def Obligations.ResetValues : Prop :=
  let s := State.reset
  s.seq = ⟨.idle, 0⟩ ∧ s.seq.word = 0 ∧ s.ret.code = 0 ∧ s.fill = 0 ∧ s.len = 0 ∧ s.cause.code = 0 ∧
    s.status = 0x00 ∧ s.busy = false ∧ s.done = false ∧ s.err = false ∧ s.causeOut = 0 ∧
    ∀ w, s.cmdReady w = true

/-! ### Frames: who writes what (10_state.md section 1, 20_memory.md R50) -/

/-- `Hs` is written only by INIT and FEEDFWD, `wr` only by INITWR and ROUND, and of `W` only the word
`t` by LOADW and EXPAND (R20, R21, R34). -/
def Obligations.DataRegisterFrame : Prop :=
  ∀ (i : Instr) (s t : State), exec i s = .next t →
    (i ≠ .init → i ≠ .feedfwd → t.hs = s.hs) ∧
    (i ≠ .initwr → (∀ n, i ≠ .round n) → t.wr = s.wr) ∧
    (∀ n : BitVec 6, scheduleStore i ≠ some n → t.readW n = s.readW n)

/-- Every byte of `BLK` is unchanged but the one at the address the instruction stores to, which PUSH,
PAD80, PADZ and PADLEN compute; every byte of `HEX` but the one RENDER stores (R35, R36). -/
def Obligations.MemoryFrame : Prop :=
  ∀ (i : Instr) (s t : State), exec i s = .next t →
    (∀ a, blkStore i s ≠ some a →
      Memory.read t.blk a = Memory.read s.blk a ∧ t.readBlk a = s.readBlk a) ∧
    (∀ a, hexStore i ≠ some a →
      Memory.read t.hex a = Memory.read s.hex a ∧ t.readHex a = s.readHex a)

/-- A byte stored is the byte read from that address afterwards, until the next store to it; every other
address reads as before (20_memory.md R50, R61, 00_scope.md R12). -/
def Obligations.StoredBytesReadBack : Prop :=
  ∀ (s : State) (a a' : Nat) (b : Byte),
    (s.writeBlk a b).readBlk a' = (if a' = a then b else s.readBlk a') ∧
    (s.writeHex a b).readHex a' = (if a' = a then b else s.readHex a')

/-- `LEN` is written only by INIT and PUSH, `RET` only by INIT, PUSH, PADZ and PADLEN, `FILL` only by INIT,
PUSH, PAD80, PADZ, PADLEN and FEEDFWD, `CAUSE` only by a fault (R28 to R31); RDSTAT, RDHEX in DONE and
the wait states keep `SEQ`. -/
def Obligations.ControlRegisterFrame : Prop :=
  ∀ (i : Instr) (s t : State), exec i s = .next t →
    (i ≠ .init → (∀ d, i ≠ .push d) → t.len = s.len) ∧
    (i ≠ .init → (∀ d, i ≠ .push d) → i ≠ .padz → (∀ n, i ≠ .padlen n) → t.ret = s.ret) ∧
    (i ≠ .init → (∀ d, i ≠ .push d) → i ≠ .pad80 → i ≠ .padz → (∀ n, i ≠ .padlen n) → i ≠ .feedfwd →
      t.fill = s.fill) ∧
    (t.seq.phase ≠ .error → t.cause = s.cause) ∧
    ((∃ z, i = .rdstat z) ∨ ((∃ n, i = .rdhex n) ∧ s.seq.phase = .done) ∨ i = .idle ∨ i = .absorb ∨
      i = .done ∨ (∃ n, i = .error n) → t.seq = s.seq ∧ t.cause = s.cause)

/-- No instruction touches the host's queue or the model's own counter, and only commands respond. -/
def Obligations.PortFrame : Prop :=
  ∀ (i : Instr) (s t : State), exec i s = .next t →
    t.input = s.input ∧ t.free = s.free ∧
    (i.isCommand = false → t.rspValid = s.rspValid ∧ t.rsp = s.rsp)

/-! ### The whole machine -/

/-- The invariant holds right after reset. -/
def Obligations.ResetMeetsTheInvariant : Prop :=
  Inv State.reset

/-- Every step keeps the invariant, from every state that meets it and whatever the host does: `SEQ` stays
legal (10_state.md R24), `CAUSE` ≠ 0 exactly in ERROR (R31), `FILL` and `LEN` stay in their ranges and
agree in ABSORB (R29, R39, R41), the block is full in the block subroutine (R40), the memories keep
their canonical form, and what will be read has been written (R43). -/
def Obligations.StepKeepsTheInvariant : Prop :=
  ∀ s t : State, Inv s → step s = .next t → Inv t

/-- The engine never stops: from every state that meets the invariant, and whatever the host does, there
is a next state. So no state outside the legal set is met (10_state.md R24, R29). -/
def Obligations.EngineNeverStops : Prop :=
  ∀ s : State, Inv s → ∃ t, step s = .next t

/-- Written before read (10_state.md R43): in a state that meets the invariant all 64 bytes of `BLK` have been
written when LOADW reads them and all 64 of `HEX` when RDHEX does. So no step but reset sees a free value:
with another index of the free values it does the same. -/
def Obligations.FreeValuesAreNeverObserved : Prop :=
  ∀ (s : State) (k : Nat), Inv s →
    (s.seq.phase = .loadw → Memory.filledTo s.blk 64) ∧
    (s.seq.phase = .done → Memory.filledTo s.hex 64) ∧
    (s.rst = false → ∀ t, step s = .next t → step { s with free := k } = .next { t with free := k })

/-- The transition relation of `SEQ` (30_encoding.md R81): every step from a reachable state is one of its
arrows, with `RET` as the arrow says. -/
def Obligations.SequencerFollowsTheArrows : Prop :=
  ∀ s t : State, Inv s → step s = .next t → SeqArrow s t.seq t.ret

/-- `LEN` never wraps (10_state.md R30, 40_primitives.md R91): a step leaves it, sets it to 0, or adds 8 as
an ordinary sum. -/
def Obligations.LenNeverWraps : Prop :=
  ∀ s t : State, step s = .next t →
    t.len = s.len ∨ t.len = 0 ∨ t.len.toNat = s.len.toNat + 8

/-- Busy time is bounded (70_reset_and_hazards.md R211): from any busy state that meets the invariant, and
whatever commands the host presents meanwhile, a wait phase is reached within 398 steps. -/
def Obligations.BusyTimeIsBounded : Prop :=
  ∀ s : State, Inv s → s.seq.phase.isBusy = true → (∀ a ∈ s.input, a ≠ .reset) →
    ∃ n t, n ≤ 398 ∧ runSteps n s = .next t ∧ t.seq.phase.isWait = true

/-! ### What the micro-operations compute together -/

/-- The padder (41_padding.md R120 to R123): up to 55 bytes in the block, the flag byte, zeros and the
length complete it and it goes to the block subroutine as the last one; from 56 bytes on, the flag
byte and zeros complete it, and the next block is zeros and the length. Message bytes are not touched. -/
def Obligations.PadderCompletesTheBlock : Prop :=
  ∀ (s : State) (r : Nat), s.input = [] → s.fill.toNat = r →
    (s.seq = ⟨.pad80, 0⟩ → r ≤ 55 →
      ∃ n t, runSteps n s = .next t ∧ t.seq = ⟨.loadw, 0⟩ ∧ t.ret = .render ∧ t.fill = 64 ∧
        t.hs = s.hs ∧ t.len = s.len ∧
        ∀ a, a < 64 → Memory.read t.blk a =
          if a < r then Memory.read s.blk a
          else if a = r then some 0x80
          else if a < 56 then some 0x00
          else some (BitVec.ofNat 8 (s.len.toNat / 2 ^ (8 * (63 - a))))) ∧
    (s.seq = ⟨.pad80, 0⟩ → 56 ≤ r → r ≤ 63 →
      ∃ n t, runSteps n s = .next t ∧ t.seq = ⟨.loadw, 0⟩ ∧ t.ret = .padz ∧ t.fill = 64 ∧
        t.hs = s.hs ∧ t.len = s.len ∧
        ∀ a, a < 64 → Memory.read t.blk a =
          if a < r then Memory.read s.blk a else if a = r then some 0x80 else some 0x00) ∧
    (s.seq = ⟨.padz, 0⟩ → r = 0 →
      ∃ n t, runSteps n s = .next t ∧ t.seq = ⟨.loadw, 0⟩ ∧ t.ret = .render ∧ t.fill = 64 ∧
        t.hs = s.hs ∧ t.len = s.len ∧
        ∀ a, a < 64 → Memory.read t.blk a =
          if a < 56 then some 0x00 else some (BitVec.ofNat 8 (s.len.toNat / 2 ^ (8 * (63 - a)))))

/-- The expander (42_schedule.md R132): when `SEQ` reaches `(INITWR, 0)`, `W[0..63]` = `expand(B)` where
`B` is the block at the call; `BLK`, `Hs`, `LEN` and `RET` are unchanged, and apart from `W` and `SEQ`
nothing is written. -/
def Obligations.ExpanderComputesTheSchedule : Prop :=
  ∀ (s : State) (b : List Byte), s.input = [] → s.seq = ⟨.loadw, 0⟩ → s.fill = 64 →
    b = (List.range 64).map s.readBlk →
    ∃ t, runSteps 64 s = .next t ∧ t.w.toList = expandRef b ∧
      t = { s with w := t.w, seq := ⟨.initwr, 0⟩, rspValid := false, rsp := 0 }

/-- The block subroutine (43_compression.md R143): from the call with `BLK` = `B` and `Hs` = `S` it takes
130 steps and ends with `Hs` = `compress(S, expand(B))`, `FILL` = 0, and control at the phase `RET`
names; `BLK`, `HEX`, `LEN`, `RET` and `CAUSE` are as before. -/
def Obligations.BlockSubroutineCompresses : Prop :=
  ∀ (s : State) (b : List Byte), s.input = [] → s.seq = ⟨.loadw, 0⟩ → s.fill = 64 →
    b = (List.range 64).map s.readBlk →
    ∃ t, runSteps 130 s = .next t ∧ t.hs = compressRef s.hs (expandRef b) ∧ t.fill = 0 ∧
      t.seq = ⟨s.ret.target, 0⟩ ∧ t.blk = s.blk ∧ t.hex = s.hex ∧ t.len = s.len ∧ t.ret = s.ret ∧
      t.cause = s.cause

/-- The renderer (44_top_level.md R165): after its 64 steps `HEX[0..63]` = `hexrender(Hs)`, `Hs` is not
changed and the phase is DONE. -/
def Obligations.RendererWritesTheDigest : Prop :=
  ∀ s : State, s.input = [] → s.seq = ⟨.render, 0⟩ →
    ∃ t, runSteps 64 s = .next t ∧ t.seq = ⟨.done, 0⟩ ∧ t.hs = s.hs ∧ t.blk = s.blk ∧
      ∀ a, a < 64 → Memory.read t.hex a = (hexRef s.hs)[a]?

/-- Correctness of the engine against the reference function (44_top_level.md R170, 00_scope.md R17). From
any data state in IDLE, ABSORB or DONE, the script INIT, the bytes of `M` by PUSH, FINAL, `RDHEX 0` to
`RDHEX 63` ends in DONE without a fault, and the responses of the 64 reads are `sha256_ref(M)`. -/
def Obligations.DigestEqualsTheReference : Prop :=
  ∀ (s : State) (m : List Byte), s.seq.phase ∈ [Phase.idle, Phase.absorb, Phase.done] →
    m.length < 2 ^ 61 → s.input = digestScript m →
    ∃ n t, runSteps n s = .next t ∧ t.runOver = true ∧ t.seq = ⟨.done, 0⟩ ∧ t.cause = s.cause ∧
      responses n s = List.replicate (m.length + 2) 0x00 ++ sha256Ref m ∧
      ∀ a, a < 64 → Memory.read t.hex a = (sha256Ref m)[a]?

/-- The digest does not depend on how long the host waits between commands, nor on status reads anywhere
among them (44_top_level.md R170): with any number of both put into the script of
`DigestEqualsTheReference`, from a legal `SEQ` (10_state.md R24), the run ends in DONE without a fault and `HEX` holds `sha256_ref(M)`. -/
def Obligations.WaitingAndStatusReadsDoNotMatter : Prop :=
  ∀ (s : State) (m : List Byte), s.seq.legal = true →
    s.seq.phase ∈ [Phase.idle, Phase.absorb, Phase.done] →
    m.length < 2 ^ 61 → s.input.filter HostAct.isScriptLine = digestScript m →
    ∃ n t, runSteps n s = .next t ∧ t.runOver = true ∧ t.seq = ⟨.done, 0⟩ ∧ t.cause = s.cause ∧
      ∀ a, a < 64 → Memory.read t.hex a = (sha256Ref m)[a]?

/-- History does not matter (70_reset_and_hazards.md R204, 10_state.md R37): two engines in any two
reachable states of IDLE, ABSORB or DONE, given the same input beginning with INIT, return the same
responses for ever, whatever `Hs`, `wr`, `W`, `BLK` and `HEX` held before. -/
def Obligations.HistoryDoesNotMatter : Prop :=
  ∀ (s s' : State) (l : List HostAct) (n : Nat), Inv s → Inv s' →
    s.seq.phase ∈ [Phase.idle, Phase.absorb, Phase.done] →
    s'.seq.phase ∈ [Phase.idle, Phase.absorb, Phase.done] →
    s.input = line .init :: l → s'.input = line .init :: l →
    responses n s = responses n s'

/-! ### Words, tables and the reference functions -/

/-- Rotate right (40_primitives.md R93): bit `i` of the result is `x[(i + n) mod 32]`, and the result is
`((x >> n) + (x * 2^(32-n))) mod 2^32`. -/
def Obligations.RotateMovesBits : Prop :=
  ∀ (x : Word) (n : Nat), 1 ≤ n → n ≤ 31 →
    (∀ i, i < 32 → (rotr x n).getLsbD i = x.getLsbD ((i + n) % 32)) ∧
    (rotr x n).toNat = (x.toNat / 2 ^ n + x.toNat * 2 ^ (32 - n)) % 2 ^ 32

/-- Choice and majority, by formula and bit by bit (40_primitives.md R99, R100). -/
def Obligations.ChoiceAndMajorityByBit : Prop :=
  ∀ (x y z : Word) (i : Nat),
    ch x y z = (x &&& y) ^^^ (~~~x &&& z) ∧
    maj x y z = (x &&& y) ^^^ (x &&& z) ^^^ (y &&& z) ∧
    (ch x y z).getLsbD i = (if x.getLsbD i = true then y.getLsbD i else z.getLsbD i) ∧
    ((maj x y z).getLsbD i = true ↔
      2 ≤ [x.getLsbD i, y.getLsbD i, z.getLsbD i].count true)

/-- The length field and the word load fit together (20_memory.md R57): loaded big-endian from the eight
bytes of `LEN`, `W[14]` is `LEN[63:32]` and `W[15]` is `LEN[31:0]`. -/
def Obligations.LengthFieldLoadsAsLen : Prop :=
  ∀ len : BitVec 64,
    (be32 (lenByte len 0) (lenByte len 1) (lenByte len 2) (lenByte len 3)).toNat = len.toNat / 2 ^ 32 ∧
    (be32 (lenByte len 4) (lenByte len 5) (lenByte len 6) (lenByte len 7)).toNat = len.toNat % 2 ^ 32

/-- Properties of `pad` (40_primitives.md R107): (a) its length, (b) the message is an unmodified, strict
prefix, (c) the last 8 bytes as a big-endian integer are the bit length, (d) 55 bytes take one block
and 56 take two. -/
def Obligations.PadProperties : Prop :=
  ∀ m : List Byte, m.length < 2 ^ 61 →
    (m.length % 64 ≤ 55 → (pad m).length = 64 * (m.length / 64 + 1)) ∧
    (56 ≤ m.length % 64 → (pad m).length = 64 * (m.length / 64 + 2)) ∧
    (m <+: pad m ∧ m.length < (pad m).length) ∧
    ((pad m).drop ((pad m).length - 8)).foldl (fun v b => v * 256 + b.toNat) 0 = 8 * m.length ∧
    (m.length = 55 → (pad m).length = 64) ∧ (m.length = 56 → (pad m).length = 128)

/-- The digest has exactly 64 characters, each the ASCII code of a lowercase hexadecimal digit
(40_primitives.md R111, R112, 10_state.md R36). For a message of 2^61 bytes or more, where `sha256_ref` is
not defined, this is about the model's total function (log entry 20). -/
def Obligations.DigestIs64LowercaseHexDigits : Prop :=
  ∀ m : List Byte, (sha256Ref m).length = 64 ∧
    ∀ b ∈ sha256Ref m, (0x30 ≤ b.toNat ∧ b.toNat ≤ 0x39) ∨ (0x61 ≤ b.toNat ∧ b.toNat ≤ 0x66)

/-- The tables are what 40_primitives.md section 2 checks them to be: `K[i]` the first 32 bits of the
fractional part of the cube root of the i-th prime, `HINIT[i]` those of the square root. -/
def Obligations.TablesAreFractionsOfRoots : Prop :=
  let primes := [2, 3, 5, 7, 11, 13, 17, 19, 23, 29, 31, 37, 41, 43, 47, 53, 59, 61, 67, 71, 73, 79, 83,
    89, 97, 101, 103, 107, 109, 113, 127, 131, 137, 139, 149, 151, 157, 163, 167, 173, 179, 181, 191,
    193, 197, 199, 211, 223, 227, 229, 233, 239, 241, 251, 257, 263, 269, 271, 277, 281, 283, 293, 307,
    311]
  (∀ (i : BitVec 6) (p : Nat) (k : Word), primes[i.toNat]? = some p → k = kRead i →
    ∃ c, c ≤ 6 ∧ (c * 2 ^ 32 + k.toNat) ^ 3 ≤ p * 2 ^ 96 ∧ p * 2 ^ 96 < (c * 2 ^ 32 + k.toNat + 1) ^ 3) ∧
  (∀ (i : Fin 8) (p : Nat), primes[i.val]? = some p →
    ∃ c, c ≤ 4 ∧ (c * 2 ^ 32 + (hinit.get i).toNat) ^ 2 ≤ p * 2 ^ 64 ∧
      p * 2 ^ 64 < (c * 2 ^ 32 + (hinit.get i).toNat + 1) ^ 2)

/-- Logical shift right (40_primitives.md R94): `x >> n` is `x div 2^n`; bit `i` of the result is `x[i + n]`,
and zeros enter at the top. -/
def Obligations.ShiftRightDividesByPowerOfTwo : Prop :=
  ∀ (x : Word) (n : Nat),
    (shr x n).toNat = x.toNat / 2 ^ n ∧
    ∀ i, (shr x n).getLsbD i = (if i + n < 32 then x.getLsbD (i + n) else false)
end

