-- ==== Sys2Proof/Laws/Decode.lean ====
section
/-! SUPPORT. The fields of words and of `SEQ`, and what the decoder does with them. -/

namespace Sys2Proof

/-- The high part of a concatenation. -/
theorem extract_append_high {m n : Nat} (x : BitVec m) (y : BitVec n) : (x ++ y).extractLsb' n m = x := by
  ext i hi; simp [BitVec.getLsbD_append, BitVec.getLsbD_eq_getElem hi]

/-- The low part of a concatenation. -/
theorem extract_append_low {m n : Nat} (x : BitVec m) (y : BitVec n) : (x ++ y).extractLsb' 0 n = y := by
  ext i hi; simp [BitVec.getLsbD_append, hi]

/-- A concatenation of the two parts of a value. -/
theorem append_extract {m n : Nat} (w : BitVec (m + n)) :
    w.extractLsb' n m ++ w.extractLsb' 0 n = w := by
  ext i hi
  simp only [BitVec.getElem_append, BitVec.getElem_extractLsb']
  split
  · simp [BitVec.getLsbD_eq_getElem hi]
  · rw [show n + (i - n) = i by omega]
    exact BitVec.getLsbD_eq_getElem hi

@[simp] theorem cmdOp_cmdWord (op : BitVec 4) (arg : Byte) : cmdOp (cmdWord op arg) = op :=
  extract_append_high op arg

@[simp] theorem cmdArg_cmdWord (op : BitVec 4) (arg : Byte) : cmdArg (cmdWord op arg) = arg :=
  extract_append_low op arg

/-- A command word is its two fields. -/
theorem cmdWord_fields (w : BitVec 12) : cmdWord (cmdOp w) (cmdArg w) = w :=
  append_extract (m := 4) (n := 8) w

@[simp] theorem seqPhase_seqWord (p : BitVec 4) (t : BitVec 6) : seqPhase (seqWord p t) = p :=
  extract_append_high p t

@[simp] theorem seqIndex_seqWord (p : BitVec 4) (t : BitVec 6) : seqIndex (seqWord p t) = t :=
  extract_append_low p t

/-- A `SEQ` value is its two fields. -/
theorem seqWord_fields (w : BitVec 10) : seqWord (seqPhase w) (seqIndex w) = w :=
  append_extract (m := 4) (n := 6) w

@[simp] theorem Phase.ofCode_code (p : Phase) : Phase.ofCode p.code = some p := by cases p <;> rfl

theorem Phase.code_of_ofCode {c : BitVec 4} {p : Phase} (h : Phase.ofCode c = some p) : p.code = c := by
  revert h p; revert c; decide

/-- What the sequencer decodes from the register is decided by its two fields. -/
@[simp] theorem Machine.decodeSeq_word (q : Machine.Seq) : decodeSeq q.word = decodePhase q.phase q.t := by
  simp [decodeSeq, Machine.Seq.word]

/-- The register read back from its own value. -/
@[simp] theorem Machine.Seq.ofWord_word (q : Machine.Seq) : Machine.Seq.ofWord q.word = some q := by
  simp [Machine.Seq.ofWord, Machine.Seq.word]

end Sys2Proof
end

