-- ==== Sys2Proof/Laws/Memory.lean ====
section
/-! SUPPORT. Byte memories: read after write, the frame of a write, the canonical form is kept. -/

namespace Sys2Proof.Machine

/-- A read after a write to the same address gives the byte written. -/
@[simp] theorem Memory.read_write_same (m : Memory) (a : Nat) (b : Byte) :
    Memory.read (Memory.write m a b) a = some b := by
  induction m with
  | nil => simp [Memory.write, Memory.read]
  | cons c m ih =>
    obtain ⟨k, v⟩ := c
    simp only [Memory.write]
    split
    · simp [Memory.read]
    · split
      · simp [Memory.read]
      · have : k ≠ a := by omega
        simp [Memory.read, this, ih]

/-- A write leaves every other address alone. -/
theorem Memory.read_write_other (m : Memory) {a a' : Nat} (b : Byte) (h : a' ≠ a) :
    Memory.read (Memory.write m a b) a' = Memory.read m a' := by
  induction m with
  | nil => simp [Memory.write, Memory.read, h.symm]
  | cons c m ih =>
    obtain ⟨k, v⟩ := c
    simp only [Memory.write]
    split
    · simp [Memory.read, h.symm]
    · split
      · next hk => subst hk; simp [Memory.read, h.symm]
      · simp [Memory.read, ih]

/-- Reading any address after a write. -/
theorem Memory.read_write (m : Memory) (a a' : Nat) (b : Byte) :
    Memory.read (Memory.write m a b) a' = if a' = a then some b else Memory.read m a' := by
  split
  · next h => subst h; exact Memory.read_write_same m a' b
  · next h => exact Memory.read_write_other m b h

/-- A write never makes a byte unreadable. -/
theorem Memory.isSome_read_write (m : Memory) (a a' : Nat) (b : Byte)
    (h : (Memory.read m a').isSome = true) : (Memory.read (Memory.write m a b) a').isSome = true := by
  rw [Memory.read_write]; split <;> simp [h]

theorem Memory.risingFrom_write {lo a : Nat} {m : Memory} (b : Byte)
    (h : Memory.risingFrom lo m = true) (hlo : lo ≤ a) :
    Memory.risingFrom lo (Memory.write m a b) = true := by
  induction m generalizing lo with
  | nil => simp [Memory.write, Memory.risingFrom, hlo]
  | cons c m ih =>
    obtain ⟨k, v⟩ := c
    simp only [Memory.risingFrom, Bool.and_eq_true, decide_eq_true_eq] at h
    simp only [Memory.write]
    split
    · simp only [Memory.risingFrom, Bool.and_eq_true, decide_eq_true_eq]
      exact ⟨hlo, by omega, h.2⟩
    · split
      · next hk => subst hk; simp [Memory.risingFrom, hlo, h.2]
      · simp only [Memory.risingFrom, Bool.and_eq_true, decide_eq_true_eq]
        exact ⟨h.1, ih h.2 (by omega)⟩

theorem Memory.inRange_write {a : Nat} {m : Memory} (b : Byte) (h : Memory.inRange m = true)
    (ha : a < 64) : Memory.inRange (Memory.write m a b) = true := by
  induction m with
  | nil => simpa [Memory.write, Memory.inRange] using ha
  | cons c m ih =>
    obtain ⟨k, v⟩ := c
    simp only [Memory.inRange, List.all_cons, Bool.and_eq_true, decide_eq_true_eq] at h ih ⊢
    simp only [Memory.write]
    split
    · simp [h, ha]
    · split
      · simp [h, ha]
      · simp [h.1, ih h.2]

/-- The empty memory is in canonical form. -/
@[simp] theorem Memory.wf_nil : Memory.wf [] = true := rfl

/-- Every write inside the space keeps the canonical form. -/
theorem Memory.wf_write {m : Memory} (a : Nat) (b : Byte) (h : Memory.wf m = true) (ha : a < 64) :
    Memory.wf (Memory.write m a b) = true := by
  simp only [Memory.wf, Bool.and_eq_true] at h ⊢
  exact ⟨Memory.risingFrom_write b h.1 (Nat.zero_le a), Memory.inRange_write b h.2 ha⟩

theorem Memory.read_lt_of_risingFrom {m : Memory} {lo a : Nat} (h : Memory.risingFrom lo m = true)
    (ha : a < lo) : Memory.read m a = none := by
  induction m generalizing lo with
  | nil => rfl
  | cons c m ih =>
    obtain ⟨k, v⟩ := c
    simp only [Memory.risingFrom, Bool.and_eq_true, decide_eq_true_eq] at h
    simp only [Memory.read]
    rw [if_neg (by omega)]
    exact ih h.2 (by omega)

theorem Memory.eq_of_read_of_risingFrom {m m' : Memory} {lo : Nat} (h : Memory.risingFrom lo m = true)
    (h' : Memory.risingFrom lo m' = true) (hr : ∀ a, Memory.read m a = Memory.read m' a) : m = m' := by
  induction m generalizing lo m' with
  | nil =>
    cases m' with
    | nil => rfl
    | cons c _ => obtain ⟨k, v⟩ := c; have := hr k; simp [Memory.read] at this
  | cons c m ih =>
    obtain ⟨k, v⟩ := c
    cases m' with
    | nil => have := hr k; simp [Memory.read] at this
    | cons c' m' =>
      obtain ⟨k', v'⟩ := c'
      simp only [Memory.risingFrom, Bool.and_eq_true, decide_eq_true_eq] at h h'
      have hk : k = k' := by
        rcases Nat.lt_trichotomy k k' with hlt | heq | hlt
        · have h1 := hr k
          simp only [Memory.read, if_pos] at h1
          rw [if_neg (by omega), Memory.read_lt_of_risingFrom h'.2 (by omega)] at h1
          exact absurd h1 (by simp)
        · exact heq
        · have h1 := hr k'
          simp only [Memory.read, if_pos] at h1
          rw [if_neg (by omega), Memory.read_lt_of_risingFrom h.2 (by omega)] at h1
          exact absurd h1.symm (by simp)
      subst hk
      have hv : v = v' := by have := hr k; simpa [Memory.read] using this
      subst hv
      have : m = m' := by
        refine ih h.2 h'.2 fun a => ?_
        by_cases hka : k = a
        · subst hka
          rw [Memory.read_lt_of_risingFrom h.2 (by omega), Memory.read_lt_of_risingFrom h'.2 (by omega)]
        · have := hr a
          simpa [Memory.read, hka] using this
      rw [this]

/-- The form is canonical: two memories in it that read the same at every address are equal. -/
theorem Memory.eq_of_read {m m' : Memory} (h : Memory.wf m = true) (h' : Memory.wf m' = true)
    (hr : ∀ a, Memory.read m a = Memory.read m' a) : m = m' := by
  simp only [Memory.wf, Bool.and_eq_true] at h h'
  exact Memory.eq_of_read_of_risingFrom h.1 h'.1 hr

/-! ### Reading a byte of `BLK` and of `HEX` -/

variable {s t : State}

/-- A byte that has been written reads as written. -/
theorem State.readBlk_of_read {a : Nat} {b : Byte} (h : Memory.read s.blk a = some b) :
    s.readBlk a = b := by simp [State.readBlk, h]

/-- A byte that has been written reads as written. -/
theorem State.readHex_of_read {a : Nat} {b : Byte} (h : Memory.read s.hex a = some b) :
    s.readHex a = b := by simp [State.readHex, h]

/-- What `BLK` reads as depends on its listed bytes and on the index of the free values. -/
theorem State.readBlk_congr {a : Nat} (h : Memory.read t.blk a = Memory.read s.blk a)
    (hf : t.free = s.free) : t.readBlk a = s.readBlk a := by simp [State.readBlk, h, hf]

/-- What `HEX` reads as depends on its listed bytes and on the index of the free values. -/
theorem State.readHex_congr {a : Nat} (h : Memory.read t.hex a = Memory.read s.hex a)
    (hf : t.free = s.free) : t.readHex a = s.readHex a := by simp [State.readHex, h, hf]

/-- A byte that has been written does not read as a free value. -/
theorem State.readBlk_free {a : Nat} (h : (Memory.read s.blk a).isSome = true) (k : Nat) :
    ({ s with free := k } : State).readBlk a = s.readBlk a := by
  obtain ⟨b, hb⟩ := Option.isSome_iff_exists.mp h
  simp [State.readBlk, hb]

/-- A byte that has been written does not read as a free value. -/
theorem State.readHex_free {a : Nat} (h : (Memory.read s.hex a).isSome = true) (k : Nat) :
    ({ s with free := k } : State).readHex a = s.readHex a := by
  obtain ⟨b, hb⟩ := Option.isSome_iff_exists.mp h
  simp [State.readHex, hb]

/-- Reading any byte of `BLK` after a write. -/
theorem State.readBlk_writeBlk (s : State) (a a' : Nat) (b : Byte) :
    (s.writeBlk a b).readBlk a' = if a' = a then b else s.readBlk a' := by
  simp only [State.readBlk, State.writeBlk, Memory.read_write]
  split <;> rfl

/-- Reading any byte of `HEX` after a write. -/
theorem State.readHex_writeHex (s : State) (a a' : Nat) (b : Byte) :
    (s.writeHex a b).readHex a' = if a' = a then b else s.readHex a' := by
  simp only [State.readHex, State.writeHex, Memory.read_write]
  split <;> rfl

/-- A word of `BLK` whose four bytes have been written. -/
theorem State.readBlkWord_of_read {a : Nat} {b0 b1 b2 b3 : Byte}
    (h0 : Memory.read s.blk a = some b0) (h1 : Memory.read s.blk (a + 1) = some b1)
    (h2 : Memory.read s.blk (a + 2) = some b2) (h3 : Memory.read s.blk (a + 3) = some b3) :
    s.readBlkWord a = be32 b0 b1 b2 b3 := by
  simp only [State.readBlkWord, State.readBlk_of_read h0, State.readBlk_of_read h1,
    State.readBlk_of_read h2, State.readBlk_of_read h3]

/-- A word of `BLK` depends on its four bytes only. -/
theorem State.readBlkWord_congr {a : Nat} (h : ∀ i, i < 4 → t.readBlk (a + i) = s.readBlk (a + i)) :
    t.readBlkWord a = s.readBlkWord a := by
  have h0 := h 0 (by omega)
  simp only [Nat.add_zero] at h0
  simp only [State.readBlkWord, h0, h 1 (by omega), h 2 (by omega), h 3 (by omega)]

end Sys2Proof.Machine
end

