-- ==== Sys2Proof/Laws/State.lean ====
section
/-! SUPPORT. One lemma per field per update of State: what the update leaves in the field. -/

namespace Sys2Proof.Machine

/-! ### setSeq -/

@[simp] theorem State.setSeq_hs (s : State) (p : Phase) (t : BitVec 6) :
    (s.setSeq p t).hs = s.hs := rfl
@[simp] theorem State.setSeq_wr (s : State) (p : Phase) (t : BitVec 6) :
    (s.setSeq p t).wr = s.wr := rfl
@[simp] theorem State.setSeq_w (s : State) (p : Phase) (t : BitVec 6) :
    (s.setSeq p t).w = s.w := rfl
@[simp] theorem State.setSeq_blk (s : State) (p : Phase) (t : BitVec 6) :
    (s.setSeq p t).blk = s.blk := rfl
@[simp] theorem State.setSeq_hex (s : State) (p : Phase) (t : BitVec 6) :
    (s.setSeq p t).hex = s.hex := rfl
@[simp] theorem State.setSeq_seq (s : State) (p : Phase) (t : BitVec 6) :
    (s.setSeq p t).seq = ⟨p, t⟩ := rfl
@[simp] theorem State.setSeq_ret (s : State) (p : Phase) (t : BitVec 6) :
    (s.setSeq p t).ret = s.ret := rfl
@[simp] theorem State.setSeq_fill (s : State) (p : Phase) (t : BitVec 6) :
    (s.setSeq p t).fill = s.fill := rfl
@[simp] theorem State.setSeq_len (s : State) (p : Phase) (t : BitVec 6) :
    (s.setSeq p t).len = s.len := rfl
@[simp] theorem State.setSeq_cause (s : State) (p : Phase) (t : BitVec 6) :
    (s.setSeq p t).cause = s.cause := rfl
@[simp] theorem State.setSeq_rspValid (s : State) (p : Phase) (t : BitVec 6) :
    (s.setSeq p t).rspValid = s.rspValid := rfl
@[simp] theorem State.setSeq_rsp (s : State) (p : Phase) (t : BitVec 6) :
    (s.setSeq p t).rsp = s.rsp := rfl
@[simp] theorem State.setSeq_input (s : State) (p : Phase) (t : BitVec 6) :
    (s.setSeq p t).input = s.input := rfl
@[simp] theorem State.setSeq_free (s : State) (p : Phase) (t : BitVec 6) :
    (s.setSeq p t).free = s.free := rfl

/-! ### setRet -/

@[simp] theorem State.setRet_hs (s : State) (r : Ret) :
    (s.setRet r).hs = s.hs := rfl
@[simp] theorem State.setRet_wr (s : State) (r : Ret) :
    (s.setRet r).wr = s.wr := rfl
@[simp] theorem State.setRet_w (s : State) (r : Ret) :
    (s.setRet r).w = s.w := rfl
@[simp] theorem State.setRet_blk (s : State) (r : Ret) :
    (s.setRet r).blk = s.blk := rfl
@[simp] theorem State.setRet_hex (s : State) (r : Ret) :
    (s.setRet r).hex = s.hex := rfl
@[simp] theorem State.setRet_seq (s : State) (r : Ret) :
    (s.setRet r).seq = s.seq := rfl
@[simp] theorem State.setRet_ret (s : State) (r : Ret) :
    (s.setRet r).ret = r := rfl
@[simp] theorem State.setRet_fill (s : State) (r : Ret) :
    (s.setRet r).fill = s.fill := rfl
@[simp] theorem State.setRet_len (s : State) (r : Ret) :
    (s.setRet r).len = s.len := rfl
@[simp] theorem State.setRet_cause (s : State) (r : Ret) :
    (s.setRet r).cause = s.cause := rfl
@[simp] theorem State.setRet_rspValid (s : State) (r : Ret) :
    (s.setRet r).rspValid = s.rspValid := rfl
@[simp] theorem State.setRet_rsp (s : State) (r : Ret) :
    (s.setRet r).rsp = s.rsp := rfl
@[simp] theorem State.setRet_input (s : State) (r : Ret) :
    (s.setRet r).input = s.input := rfl
@[simp] theorem State.setRet_free (s : State) (r : Ret) :
    (s.setRet r).free = s.free := rfl

/-! ### setFill -/

@[simp] theorem State.setFill_hs (s : State) (n : BitVec 7) :
    (s.setFill n).hs = s.hs := rfl
@[simp] theorem State.setFill_wr (s : State) (n : BitVec 7) :
    (s.setFill n).wr = s.wr := rfl
@[simp] theorem State.setFill_w (s : State) (n : BitVec 7) :
    (s.setFill n).w = s.w := rfl
@[simp] theorem State.setFill_blk (s : State) (n : BitVec 7) :
    (s.setFill n).blk = s.blk := rfl
@[simp] theorem State.setFill_hex (s : State) (n : BitVec 7) :
    (s.setFill n).hex = s.hex := rfl
@[simp] theorem State.setFill_seq (s : State) (n : BitVec 7) :
    (s.setFill n).seq = s.seq := rfl
@[simp] theorem State.setFill_ret (s : State) (n : BitVec 7) :
    (s.setFill n).ret = s.ret := rfl
@[simp] theorem State.setFill_fill (s : State) (n : BitVec 7) :
    (s.setFill n).fill = n := rfl
@[simp] theorem State.setFill_len (s : State) (n : BitVec 7) :
    (s.setFill n).len = s.len := rfl
@[simp] theorem State.setFill_cause (s : State) (n : BitVec 7) :
    (s.setFill n).cause = s.cause := rfl
@[simp] theorem State.setFill_rspValid (s : State) (n : BitVec 7) :
    (s.setFill n).rspValid = s.rspValid := rfl
@[simp] theorem State.setFill_rsp (s : State) (n : BitVec 7) :
    (s.setFill n).rsp = s.rsp := rfl
@[simp] theorem State.setFill_input (s : State) (n : BitVec 7) :
    (s.setFill n).input = s.input := rfl
@[simp] theorem State.setFill_free (s : State) (n : BitVec 7) :
    (s.setFill n).free = s.free := rfl

/-! ### setLen -/

@[simp] theorem State.setLen_hs (s : State) (n : BitVec 64) :
    (s.setLen n).hs = s.hs := rfl
@[simp] theorem State.setLen_wr (s : State) (n : BitVec 64) :
    (s.setLen n).wr = s.wr := rfl
@[simp] theorem State.setLen_w (s : State) (n : BitVec 64) :
    (s.setLen n).w = s.w := rfl
@[simp] theorem State.setLen_blk (s : State) (n : BitVec 64) :
    (s.setLen n).blk = s.blk := rfl
@[simp] theorem State.setLen_hex (s : State) (n : BitVec 64) :
    (s.setLen n).hex = s.hex := rfl
@[simp] theorem State.setLen_seq (s : State) (n : BitVec 64) :
    (s.setLen n).seq = s.seq := rfl
@[simp] theorem State.setLen_ret (s : State) (n : BitVec 64) :
    (s.setLen n).ret = s.ret := rfl
@[simp] theorem State.setLen_fill (s : State) (n : BitVec 64) :
    (s.setLen n).fill = s.fill := rfl
@[simp] theorem State.setLen_len (s : State) (n : BitVec 64) :
    (s.setLen n).len = n := rfl
@[simp] theorem State.setLen_cause (s : State) (n : BitVec 64) :
    (s.setLen n).cause = s.cause := rfl
@[simp] theorem State.setLen_rspValid (s : State) (n : BitVec 64) :
    (s.setLen n).rspValid = s.rspValid := rfl
@[simp] theorem State.setLen_rsp (s : State) (n : BitVec 64) :
    (s.setLen n).rsp = s.rsp := rfl
@[simp] theorem State.setLen_input (s : State) (n : BitVec 64) :
    (s.setLen n).input = s.input := rfl
@[simp] theorem State.setLen_free (s : State) (n : BitVec 64) :
    (s.setLen n).free = s.free := rfl

/-! ### setHs -/

@[simp] theorem State.setHs_hs (s : State) (v : Words8) :
    (s.setHs v).hs = v := rfl
@[simp] theorem State.setHs_wr (s : State) (v : Words8) :
    (s.setHs v).wr = s.wr := rfl
@[simp] theorem State.setHs_w (s : State) (v : Words8) :
    (s.setHs v).w = s.w := rfl
@[simp] theorem State.setHs_blk (s : State) (v : Words8) :
    (s.setHs v).blk = s.blk := rfl
@[simp] theorem State.setHs_hex (s : State) (v : Words8) :
    (s.setHs v).hex = s.hex := rfl
@[simp] theorem State.setHs_seq (s : State) (v : Words8) :
    (s.setHs v).seq = s.seq := rfl
@[simp] theorem State.setHs_ret (s : State) (v : Words8) :
    (s.setHs v).ret = s.ret := rfl
@[simp] theorem State.setHs_fill (s : State) (v : Words8) :
    (s.setHs v).fill = s.fill := rfl
@[simp] theorem State.setHs_len (s : State) (v : Words8) :
    (s.setHs v).len = s.len := rfl
@[simp] theorem State.setHs_cause (s : State) (v : Words8) :
    (s.setHs v).cause = s.cause := rfl
@[simp] theorem State.setHs_rspValid (s : State) (v : Words8) :
    (s.setHs v).rspValid = s.rspValid := rfl
@[simp] theorem State.setHs_rsp (s : State) (v : Words8) :
    (s.setHs v).rsp = s.rsp := rfl
@[simp] theorem State.setHs_input (s : State) (v : Words8) :
    (s.setHs v).input = s.input := rfl
@[simp] theorem State.setHs_free (s : State) (v : Words8) :
    (s.setHs v).free = s.free := rfl

/-! ### setWr -/

@[simp] theorem State.setWr_hs (s : State) (v : Words8) :
    (s.setWr v).hs = s.hs := rfl
@[simp] theorem State.setWr_wr (s : State) (v : Words8) :
    (s.setWr v).wr = v := rfl
@[simp] theorem State.setWr_w (s : State) (v : Words8) :
    (s.setWr v).w = s.w := rfl
@[simp] theorem State.setWr_blk (s : State) (v : Words8) :
    (s.setWr v).blk = s.blk := rfl
@[simp] theorem State.setWr_hex (s : State) (v : Words8) :
    (s.setWr v).hex = s.hex := rfl
@[simp] theorem State.setWr_seq (s : State) (v : Words8) :
    (s.setWr v).seq = s.seq := rfl
@[simp] theorem State.setWr_ret (s : State) (v : Words8) :
    (s.setWr v).ret = s.ret := rfl
@[simp] theorem State.setWr_fill (s : State) (v : Words8) :
    (s.setWr v).fill = s.fill := rfl
@[simp] theorem State.setWr_len (s : State) (v : Words8) :
    (s.setWr v).len = s.len := rfl
@[simp] theorem State.setWr_cause (s : State) (v : Words8) :
    (s.setWr v).cause = s.cause := rfl
@[simp] theorem State.setWr_rspValid (s : State) (v : Words8) :
    (s.setWr v).rspValid = s.rspValid := rfl
@[simp] theorem State.setWr_rsp (s : State) (v : Words8) :
    (s.setWr v).rsp = s.rsp := rfl
@[simp] theorem State.setWr_input (s : State) (v : Words8) :
    (s.setWr v).input = s.input := rfl
@[simp] theorem State.setWr_free (s : State) (v : Words8) :
    (s.setWr v).free = s.free := rfl

/-! ### writeW -/

@[simp] theorem State.writeW_hs (s : State) (t : BitVec 6) (v : Word) :
    (s.writeW t v).hs = s.hs := rfl
@[simp] theorem State.writeW_wr (s : State) (t : BitVec 6) (v : Word) :
    (s.writeW t v).wr = s.wr := rfl
@[simp] theorem State.writeW_w (s : State) (t : BitVec 6) (v : Word) :
    (s.writeW t v).w = s.w.set t.toNat v t.isLt := rfl
@[simp] theorem State.writeW_blk (s : State) (t : BitVec 6) (v : Word) :
    (s.writeW t v).blk = s.blk := rfl
@[simp] theorem State.writeW_hex (s : State) (t : BitVec 6) (v : Word) :
    (s.writeW t v).hex = s.hex := rfl
@[simp] theorem State.writeW_seq (s : State) (t : BitVec 6) (v : Word) :
    (s.writeW t v).seq = s.seq := rfl
@[simp] theorem State.writeW_ret (s : State) (t : BitVec 6) (v : Word) :
    (s.writeW t v).ret = s.ret := rfl
@[simp] theorem State.writeW_fill (s : State) (t : BitVec 6) (v : Word) :
    (s.writeW t v).fill = s.fill := rfl
@[simp] theorem State.writeW_len (s : State) (t : BitVec 6) (v : Word) :
    (s.writeW t v).len = s.len := rfl
@[simp] theorem State.writeW_cause (s : State) (t : BitVec 6) (v : Word) :
    (s.writeW t v).cause = s.cause := rfl
@[simp] theorem State.writeW_rspValid (s : State) (t : BitVec 6) (v : Word) :
    (s.writeW t v).rspValid = s.rspValid := rfl
@[simp] theorem State.writeW_rsp (s : State) (t : BitVec 6) (v : Word) :
    (s.writeW t v).rsp = s.rsp := rfl
@[simp] theorem State.writeW_input (s : State) (t : BitVec 6) (v : Word) :
    (s.writeW t v).input = s.input := rfl
@[simp] theorem State.writeW_free (s : State) (t : BitVec 6) (v : Word) :
    (s.writeW t v).free = s.free := rfl

/-! ### writeBlk -/

@[simp] theorem State.writeBlk_hs (s : State) (a : Nat) (b : Byte) :
    (s.writeBlk a b).hs = s.hs := rfl
@[simp] theorem State.writeBlk_wr (s : State) (a : Nat) (b : Byte) :
    (s.writeBlk a b).wr = s.wr := rfl
@[simp] theorem State.writeBlk_w (s : State) (a : Nat) (b : Byte) :
    (s.writeBlk a b).w = s.w := rfl
@[simp] theorem State.writeBlk_blk (s : State) (a : Nat) (b : Byte) :
    (s.writeBlk a b).blk = Memory.write s.blk a b := rfl
@[simp] theorem State.writeBlk_hex (s : State) (a : Nat) (b : Byte) :
    (s.writeBlk a b).hex = s.hex := rfl
@[simp] theorem State.writeBlk_seq (s : State) (a : Nat) (b : Byte) :
    (s.writeBlk a b).seq = s.seq := rfl
@[simp] theorem State.writeBlk_ret (s : State) (a : Nat) (b : Byte) :
    (s.writeBlk a b).ret = s.ret := rfl
@[simp] theorem State.writeBlk_fill (s : State) (a : Nat) (b : Byte) :
    (s.writeBlk a b).fill = s.fill := rfl
@[simp] theorem State.writeBlk_len (s : State) (a : Nat) (b : Byte) :
    (s.writeBlk a b).len = s.len := rfl
@[simp] theorem State.writeBlk_cause (s : State) (a : Nat) (b : Byte) :
    (s.writeBlk a b).cause = s.cause := rfl
@[simp] theorem State.writeBlk_rspValid (s : State) (a : Nat) (b : Byte) :
    (s.writeBlk a b).rspValid = s.rspValid := rfl
@[simp] theorem State.writeBlk_rsp (s : State) (a : Nat) (b : Byte) :
    (s.writeBlk a b).rsp = s.rsp := rfl
@[simp] theorem State.writeBlk_input (s : State) (a : Nat) (b : Byte) :
    (s.writeBlk a b).input = s.input := rfl
@[simp] theorem State.writeBlk_free (s : State) (a : Nat) (b : Byte) :
    (s.writeBlk a b).free = s.free := rfl

/-! ### writeHex -/

@[simp] theorem State.writeHex_hs (s : State) (a : Nat) (b : Byte) :
    (s.writeHex a b).hs = s.hs := rfl
@[simp] theorem State.writeHex_wr (s : State) (a : Nat) (b : Byte) :
    (s.writeHex a b).wr = s.wr := rfl
@[simp] theorem State.writeHex_w (s : State) (a : Nat) (b : Byte) :
    (s.writeHex a b).w = s.w := rfl
@[simp] theorem State.writeHex_blk (s : State) (a : Nat) (b : Byte) :
    (s.writeHex a b).blk = s.blk := rfl
@[simp] theorem State.writeHex_hex (s : State) (a : Nat) (b : Byte) :
    (s.writeHex a b).hex = Memory.write s.hex a b := rfl
@[simp] theorem State.writeHex_seq (s : State) (a : Nat) (b : Byte) :
    (s.writeHex a b).seq = s.seq := rfl
@[simp] theorem State.writeHex_ret (s : State) (a : Nat) (b : Byte) :
    (s.writeHex a b).ret = s.ret := rfl
@[simp] theorem State.writeHex_fill (s : State) (a : Nat) (b : Byte) :
    (s.writeHex a b).fill = s.fill := rfl
@[simp] theorem State.writeHex_len (s : State) (a : Nat) (b : Byte) :
    (s.writeHex a b).len = s.len := rfl
@[simp] theorem State.writeHex_cause (s : State) (a : Nat) (b : Byte) :
    (s.writeHex a b).cause = s.cause := rfl
@[simp] theorem State.writeHex_rspValid (s : State) (a : Nat) (b : Byte) :
    (s.writeHex a b).rspValid = s.rspValid := rfl
@[simp] theorem State.writeHex_rsp (s : State) (a : Nat) (b : Byte) :
    (s.writeHex a b).rsp = s.rsp := rfl
@[simp] theorem State.writeHex_input (s : State) (a : Nat) (b : Byte) :
    (s.writeHex a b).input = s.input := rfl
@[simp] theorem State.writeHex_free (s : State) (a : Nat) (b : Byte) :
    (s.writeHex a b).free = s.free := rfl

/-! ### setCause -/

@[simp] theorem State.setCause_hs (s : State) (c : Cause) :
    (s.setCause c).hs = s.hs := rfl
@[simp] theorem State.setCause_wr (s : State) (c : Cause) :
    (s.setCause c).wr = s.wr := rfl
@[simp] theorem State.setCause_w (s : State) (c : Cause) :
    (s.setCause c).w = s.w := rfl
@[simp] theorem State.setCause_blk (s : State) (c : Cause) :
    (s.setCause c).blk = s.blk := rfl
@[simp] theorem State.setCause_hex (s : State) (c : Cause) :
    (s.setCause c).hex = s.hex := rfl
@[simp] theorem State.setCause_seq (s : State) (c : Cause) :
    (s.setCause c).seq = s.seq := rfl
@[simp] theorem State.setCause_ret (s : State) (c : Cause) :
    (s.setCause c).ret = s.ret := rfl
@[simp] theorem State.setCause_fill (s : State) (c : Cause) :
    (s.setCause c).fill = s.fill := rfl
@[simp] theorem State.setCause_len (s : State) (c : Cause) :
    (s.setCause c).len = s.len := rfl
@[simp] theorem State.setCause_cause (s : State) (c : Cause) :
    (s.setCause c).cause = c := rfl
@[simp] theorem State.setCause_rspValid (s : State) (c : Cause) :
    (s.setCause c).rspValid = s.rspValid := rfl
@[simp] theorem State.setCause_rsp (s : State) (c : Cause) :
    (s.setCause c).rsp = s.rsp := rfl
@[simp] theorem State.setCause_input (s : State) (c : Cause) :
    (s.setCause c).input = s.input := rfl
@[simp] theorem State.setCause_free (s : State) (c : Cause) :
    (s.setCause c).free = s.free := rfl

/-! ### respond -/

@[simp] theorem State.respond_hs (s : State) (v : Byte) :
    (s.respond v).hs = s.hs := rfl
@[simp] theorem State.respond_wr (s : State) (v : Byte) :
    (s.respond v).wr = s.wr := rfl
@[simp] theorem State.respond_w (s : State) (v : Byte) :
    (s.respond v).w = s.w := rfl
@[simp] theorem State.respond_blk (s : State) (v : Byte) :
    (s.respond v).blk = s.blk := rfl
@[simp] theorem State.respond_hex (s : State) (v : Byte) :
    (s.respond v).hex = s.hex := rfl
@[simp] theorem State.respond_seq (s : State) (v : Byte) :
    (s.respond v).seq = s.seq := rfl
@[simp] theorem State.respond_ret (s : State) (v : Byte) :
    (s.respond v).ret = s.ret := rfl
@[simp] theorem State.respond_fill (s : State) (v : Byte) :
    (s.respond v).fill = s.fill := rfl
@[simp] theorem State.respond_len (s : State) (v : Byte) :
    (s.respond v).len = s.len := rfl
@[simp] theorem State.respond_cause (s : State) (v : Byte) :
    (s.respond v).cause = s.cause := rfl
@[simp] theorem State.respond_rspValid (s : State) (v : Byte) :
    (s.respond v).rspValid = true := rfl
@[simp] theorem State.respond_rsp (s : State) (v : Byte) :
    (s.respond v).rsp = v := rfl
@[simp] theorem State.respond_input (s : State) (v : Byte) :
    (s.respond v).input = s.input := rfl
@[simp] theorem State.respond_free (s : State) (v : Byte) :
    (s.respond v).free = s.free := rfl

/-! ### clearRsp -/

@[simp] theorem State.clearRsp_hs (s : State) :
    s.clearRsp.hs = s.hs := rfl
@[simp] theorem State.clearRsp_wr (s : State) :
    s.clearRsp.wr = s.wr := rfl
@[simp] theorem State.clearRsp_w (s : State) :
    s.clearRsp.w = s.w := rfl
@[simp] theorem State.clearRsp_blk (s : State) :
    s.clearRsp.blk = s.blk := rfl
@[simp] theorem State.clearRsp_hex (s : State) :
    s.clearRsp.hex = s.hex := rfl
@[simp] theorem State.clearRsp_seq (s : State) :
    s.clearRsp.seq = s.seq := rfl
@[simp] theorem State.clearRsp_ret (s : State) :
    s.clearRsp.ret = s.ret := rfl
@[simp] theorem State.clearRsp_fill (s : State) :
    s.clearRsp.fill = s.fill := rfl
@[simp] theorem State.clearRsp_len (s : State) :
    s.clearRsp.len = s.len := rfl
@[simp] theorem State.clearRsp_cause (s : State) :
    s.clearRsp.cause = s.cause := rfl
@[simp] theorem State.clearRsp_rspValid (s : State) :
    s.clearRsp.rspValid = false := rfl
@[simp] theorem State.clearRsp_rsp (s : State) :
    s.clearRsp.rsp = 0 := rfl
@[simp] theorem State.clearRsp_input (s : State) :
    s.clearRsp.input = s.input := rfl
@[simp] theorem State.clearRsp_free (s : State) :
    s.clearRsp.free = s.free := rfl

/-! ### setInput -/

@[simp] theorem State.setInput_hs (s : State) (l : List HostAct) :
    (s.setInput l).hs = s.hs := rfl
@[simp] theorem State.setInput_wr (s : State) (l : List HostAct) :
    (s.setInput l).wr = s.wr := rfl
@[simp] theorem State.setInput_w (s : State) (l : List HostAct) :
    (s.setInput l).w = s.w := rfl
@[simp] theorem State.setInput_blk (s : State) (l : List HostAct) :
    (s.setInput l).blk = s.blk := rfl
@[simp] theorem State.setInput_hex (s : State) (l : List HostAct) :
    (s.setInput l).hex = s.hex := rfl
@[simp] theorem State.setInput_seq (s : State) (l : List HostAct) :
    (s.setInput l).seq = s.seq := rfl
@[simp] theorem State.setInput_ret (s : State) (l : List HostAct) :
    (s.setInput l).ret = s.ret := rfl
@[simp] theorem State.setInput_fill (s : State) (l : List HostAct) :
    (s.setInput l).fill = s.fill := rfl
@[simp] theorem State.setInput_len (s : State) (l : List HostAct) :
    (s.setInput l).len = s.len := rfl
@[simp] theorem State.setInput_cause (s : State) (l : List HostAct) :
    (s.setInput l).cause = s.cause := rfl
@[simp] theorem State.setInput_rspValid (s : State) (l : List HostAct) :
    (s.setInput l).rspValid = s.rspValid := rfl
@[simp] theorem State.setInput_rsp (s : State) (l : List HostAct) :
    (s.setInput l).rsp = s.rsp := rfl
@[simp] theorem State.setInput_input (s : State) (l : List HostAct) :
    (s.setInput l).input = l := rfl
@[simp] theorem State.setInput_free (s : State) (l : List HostAct) :
    (s.setInput l).free = s.free := rfl

end Sys2Proof.Machine
end

