-- ==== Sys2Proof/Laws/Ops.lean ====
section
/-! SUPPORT. Everything a shared operation can do, said once. -/

namespace Sys2Proof.Machine

variable {s t : State}

/-! ### Outcomes -/

@[simp] theorem andThen_next (s : State) (k : State → Host.Outcome State Fault Refusal) :
    andThen (.next s) k = k s := rfl

/-- A sequence answers a next state exactly when both parts do. -/
theorem andThen_eq_next {o : Host.Outcome State Fault Refusal}
    {k : State → Host.Outcome State Fault Refusal} :
    andThen o k = .next t ↔ ∃ u, o = .next u ∧ k u = .next t := by
  cases o <;> simp [andThen]

/-! ### Appending a byte -/

/-- With room for it, the byte is appended. -/
theorem appendByte_room {a : Nat} {b : Byte} {k : State → State} (h : s.fill.toNat ≤ 63) :
    appendByte a b s k = .next (k ((s.writeBlk a b).setFill (s.fill + 1))) := by
  simp [appendByte, h]

/-- Without, it is refused. -/
theorem appendByte_full {a : Nat} {b : Byte} {k : State → State} (h : 63 < s.fill.toNat) :
    appendByte a b s k = .refused .fillUnreachable := by
  simp [appendByte, Nat.not_le.mpr h]

/-- If appending answers a next state there was room, and the byte has been appended. -/
theorem appendByte_eq_next {a : Nat} {b : Byte} {k : State → State} :
    appendByte a b s k = .next t ↔
      s.fill.toNat ≤ 63 ∧ t = k ((s.writeBlk a b).setFill (s.fill + 1)) := by
  by_cases h : s.fill.toNat ≤ 63
  · simp [appendByte, h, eq_comm]
  · simp [appendByte, h]

/-- `FILL` after one more byte. -/
theorem fill_succ {n : BitVec 7} (h : n.toNat ≤ 63) : (n + 1).toNat = n.toNat + 1 := by
  rw [BitVec.toNat_add, show (1 : BitVec 7).toNat = 1 from rfl]; omega

/-! ### Command acceptance -/

/-- In ERROR: no effect, response 0. -/
theorem whenAccepted_error {o : Host.Outcome State Fault Refusal} (h : s.seq.phase = .error) :
    whenAccepted s o = .next (s.respond 0) := by simp [whenAccepted, h]

/-- In another wait phase: executed. -/
theorem whenAccepted_wait {o : Host.Outcome State Fault Refusal} (h : s.seq.phase ≠ .error)
    (hw : s.seq.phase.isWait = true) : whenAccepted s o = o := by simp [whenAccepted, h, hw]

/-- In a busy phase: held. -/
theorem whenAccepted_busy {o : Host.Outcome State Fault Refusal} (hw : s.seq.phase.isWait = false) :
    whenAccepted s o = .next s := by
  have h : s.seq.phase ≠ .error := fun he => by simp [he, Phase.isWait] at hw
  simp [whenAccepted, h, hw]

/-- Everything acceptance can do. -/
theorem whenAccepted_eq_next {o : Host.Outcome State Fault Refusal} (h : whenAccepted s o = .next t) :
    (s.seq.phase = .error ∧ t = s.respond 0) ∨
    (s.seq.phase ≠ .error ∧ s.seq.phase.isWait = true ∧ o = .next t) ∨
    (s.seq.phase.isWait = false ∧ t = s) := by
  by_cases he : s.seq.phase = .error
  · rw [whenAccepted_error he] at h
    cases h
    exact .inl ⟨he, rfl⟩
  · cases hw : s.seq.phase.isWait with
    | true => rw [whenAccepted_wait he hw] at h; exact .inr (.inl ⟨he, rfl, h⟩)
    | false =>
      rw [whenAccepted_busy hw] at h
      cases h
      exact .inr (.inr ⟨rfl, rfl⟩)

/-- Everything the check of the phase can do. -/
theorem legalOnlyIn_eq_next {p : Phase} {o : Host.Outcome State Fault Refusal}
    (h : legalOnlyIn p s o = .next t) :
    (s.seq.phase = p ∧ o = .next t) ∨ (s.seq.phase ≠ p ∧ t = s.raiseCommand .protocol) := by
  by_cases hp : s.seq.phase = p
  · simp only [legalOnlyIn, hp, if_pos] at h
    exact .inl ⟨hp, h⟩
  · simp only [legalOnlyIn, hp, if_neg, not_false_eq_true, Host.Outcome.next.injEq] at h
    exact .inr ⟨hp, h.symm⟩

/-! ### Reset -/

@[simp] theorem State.resetStep_seq (s : State) : s.resetStep.seq = ⟨.idle, 0⟩ := rfl
@[simp] theorem State.resetStep_ret (s : State) : s.resetStep.ret = .absorb := rfl
@[simp] theorem State.resetStep_fill (s : State) : s.resetStep.fill = 0 := rfl
@[simp] theorem State.resetStep_len (s : State) : s.resetStep.len = 0 := rfl
@[simp] theorem State.resetStep_cause (s : State) : s.resetStep.cause = .noFault := rfl
@[simp] theorem State.resetStep_blk (s : State) : s.resetStep.blk = [] := rfl
@[simp] theorem State.resetStep_hex (s : State) : s.resetStep.hex = [] := rfl
@[simp] theorem State.resetStep_input (s : State) : s.resetStep.input = s.input := rfl
@[simp] theorem State.resetStep_rspValid (s : State) : s.resetStep.rspValid = false := rfl
@[simp] theorem State.resetStep_rsp (s : State) : s.resetStep.rsp = 0 := rfl

/-! ### The start of a step -/

@[simp] theorem State.beginStep_seq (s : State) : s.beginStep.seq = s.seq := rfl
@[simp] theorem State.beginStep_hs (s : State) : s.beginStep.hs = s.hs := rfl
@[simp] theorem State.beginStep_wr (s : State) : s.beginStep.wr = s.wr := rfl
@[simp] theorem State.beginStep_w (s : State) : s.beginStep.w = s.w := rfl
@[simp] theorem State.beginStep_blk (s : State) : s.beginStep.blk = s.blk := rfl
@[simp] theorem State.beginStep_hex (s : State) : s.beginStep.hex = s.hex := rfl
@[simp] theorem State.beginStep_ret (s : State) : s.beginStep.ret = s.ret := rfl
@[simp] theorem State.beginStep_fill (s : State) : s.beginStep.fill = s.fill := rfl
@[simp] theorem State.beginStep_len (s : State) : s.beginStep.len = s.len := rfl
@[simp] theorem State.beginStep_cause (s : State) : s.beginStep.cause = s.cause := rfl
@[simp] theorem State.beginStep_free (s : State) : s.beginStep.free = s.free := rfl
@[simp] theorem State.beginStep_input (s : State) : s.beginStep.input = s.nextInput := rfl
@[simp] theorem State.beginStep_rspValid (s : State) : s.beginStep.rspValid = false := rfl
@[simp] theorem State.beginStep_rsp (s : State) : s.beginStep.rsp = 0 := rfl

/-- Reading a word of `W` after a write. -/
theorem State.readW_writeW (s : State) (t t' : BitVec 6) (v : Word) :
    (s.writeW t v).readW t' = if t' = t then v else s.readW t' := by
  simp only [State.readW, State.writeW]
  by_cases h : t' = t
  · subst h; simp
  · have : t.toNat ≠ t'.toNat := fun he => h (BitVec.eq_of_toNat_eq he.symm)
    simp [h, this]

end Sys2Proof.Machine
end

