-- ==== Sys2Proof/Laws/Meanings.lean ====
section
/-! SUPPORT. For each instruction that can do several things, one lemma that says all of them. The other
meanings are one equation each. -/

namespace Sys2Proof.Machine

variable {s t : State}

/-- Everything INIT can do. -/
theorem execInit_eq_next (h : execInit s = .next t) :
    (s.seq.phase = .error ∧ t = s.respond 0) ∨ (s.seq.phase.isWait = false ∧ t = s) ∨
    (s.seq.phase ≠ .error ∧ s.seq.phase.isWait = true ∧
      t = (((((s.setHs hinit).setLen 0).setFill 0).setRet .absorb).setSeq .absorb 0).respond 0) := by
  rcases whenAccepted_eq_next h with h | ⟨he, hw, h⟩ | h
  · exact .inl h
  · cases h; exact .inr (.inr ⟨he, hw, rfl⟩)
  · exact .inr (.inl h)

/-- The state a PUSH leaves that is legal, within the limit of `LEN`, and has room. -/
def pushed (d : Byte) (s : State) : State :=
  let s' := ((s.writeBlk s.fill.toNat d).setFill (s.fill + 1)).setLen (s.len + 8)
  (if s.fill = 63 then s'.callBlock .absorb else s').respond 0

/-- Everything PUSH can do. -/
theorem execPush_eq_next {d : Byte} (h : execPush d s = .next t) :
    (s.seq.phase = .error ∧ t = s.respond 0) ∨ (s.seq.phase.isWait = false ∧ t = s) ∨
    (s.seq.phase ≠ .error ∧ s.seq.phase.isWait = true ∧ s.seq.phase ≠ .absorb ∧
      t = s.raiseCommand .protocol) ∨
    (s.seq.phase = .absorb ∧ s.lenAtLimit = true ∧ t = s.raiseCommand .lenOverflow) ∨
    (s.seq.phase = .absorb ∧ s.lenAtLimit = false ∧ s.fill.toNat ≤ 63 ∧ t = pushed d s) := by
  rcases whenAccepted_eq_next h with h | ⟨he, hw, h⟩ | h
  · exact .inl h
  · rcases legalOnlyIn_eq_next h with ⟨hp, h⟩ | ⟨hp, h⟩
    · split at h
      · next hl => cases h; exact .inr (.inr (.inr (.inl ⟨hp, hl, rfl⟩)))
      · next hl =>
        obtain ⟨hf, rfl⟩ := appendByte_eq_next.mp h
        exact .inr (.inr (.inr (.inr ⟨hp, by simpa using hl, hf, rfl⟩)))
    · exact .inr (.inr (.inl ⟨he, hw, hp, h⟩))
  · exact .inr (.inl h)

/-- PUSH in ABSORB below the limit, with room. -/
theorem execPush_absorb (d : Byte) (hp : s.seq.phase = .absorb) (hl : s.lenAtLimit = false)
    (hf : s.fill.toNat ≤ 63) : execPush d s = .next (pushed d s) := by
  simp [execPush, whenAccepted, legalOnlyIn, hp, Phase.isWait, hl, appendByte, hf, pushed]

/-- Everything FINAL can do. -/
theorem execFinal_eq_next (h : execFinal s = .next t) :
    (s.seq.phase = .error ∧ t = s.respond 0) ∨ (s.seq.phase.isWait = false ∧ t = s) ∨
    (s.seq.phase ≠ .error ∧ s.seq.phase.isWait = true ∧ s.seq.phase ≠ .absorb ∧
      t = s.raiseCommand .protocol) ∨
    (s.seq.phase = .absorb ∧ t = (s.setSeq .pad80 0).respond 0) := by
  rcases whenAccepted_eq_next h with h | ⟨he, hw, h⟩ | h
  · exact .inl h
  · rcases legalOnlyIn_eq_next h with ⟨hp, h⟩ | ⟨hp, h⟩
    · cases h; exact .inr (.inr (.inr ⟨hp, rfl⟩))
    · exact .inr (.inr (.inl ⟨he, hw, hp, h⟩))
  · exact .inr (.inl h)

/-- Everything RDHEX can do. -/
theorem execRdhex_eq_next {i : BitVec 6} (h : execRdhex i s = .next t) :
    (s.seq.phase = .error ∧ t = s.respond 0) ∨ (s.seq.phase.isWait = false ∧ t = s) ∨
    (s.seq.phase ≠ .error ∧ s.seq.phase.isWait = true ∧ s.seq.phase ≠ .done ∧
      t = s.raiseCommand .protocol) ∨
    (s.seq.phase = .done ∧ t = s.respond (s.readHex i.toNat)) := by
  rcases whenAccepted_eq_next h with h | ⟨he, hw, h⟩ | h
  · exact .inl h
  · rcases legalOnlyIn_eq_next h with ⟨hp, h⟩ | ⟨hp, h⟩
    · cases h; exact .inr (.inr (.inr ⟨hp, rfl⟩))
    · exact .inr (.inr (.inl ⟨he, hw, hp, h⟩))
  · exact .inr (.inl h)

/-- Everything PADZ can do. -/
theorem execPadz_eq_next (h : execPadz s = .next t) :
    (s.fill = 64 ∧ t = s.callBlock .padz) ∨ (s.fill = 56 ∧ t = s.setSeq .padlen 0) ∨
    (s.fill ≠ 64 ∧ s.fill ≠ 56 ∧ s.fill.toNat ≤ 63 ∧
      t = (s.writeBlk s.fill.toNat 0x00).setFill (s.fill + 1)) := by
  simp only [execPadz] at h
  split at h
  · next h64 => cases h; exact .inl ⟨h64, rfl⟩
  · next h64 =>
    split at h
    · next h56 => cases h; exact .inr (.inl ⟨h56, rfl⟩)
    · next h56 =>
      obtain ⟨hf, rfl⟩ := appendByte_eq_next.mp h
      exact .inr (.inr ⟨h64, h56, hf, rfl⟩)

/-- Everything PAD80 can do. -/
theorem execPad80_eq_next (h : execPad80 s = .next t) :
    s.fill.toNat ≤ 63 ∧
      t = ((s.writeBlk s.fill.toNat 0x80).setFill (s.fill + 1)).setSeq .padz 0 :=
  appendByte_eq_next.mp h

/-- Everything PADLEN can do. -/
theorem execPadlen_eq_next {n : BitVec 3} (h : execPadlen n s = .next t) :
    s.fill.toNat ≤ 63 ∧
      ((n = 7 ∧ t = ((s.writeBlk (56 + n.toNat) (lenByte s.len n.toNat)).setFill (s.fill + 1)).callBlock
          .render) ∨
       (n ≠ 7 ∧ t = ((s.writeBlk (56 + n.toNat) (lenByte s.len n.toNat)).setFill (s.fill + 1)).setSeq
          .padlen (n.setWidth 6 + 1))) := by
  obtain ⟨hf, rfl⟩ := appendByte_eq_next.mp h
  refine ⟨hf, ?_⟩
  by_cases hn : n = 7
  · subst hn; exact .inl ⟨rfl, rfl⟩
  · exact .inr ⟨hn, if_neg hn⟩

/-- Everything LOADW can do. -/
theorem execLoadw_eq_next {n : BitVec 4} (h : execLoadw n s = .next t) :
    (n = 0 ∧ s.fill ≠ 64 ∧ t = s.raise .blockSize) ∨
    ((n = 0 → s.fill = 64) ∧ ∃ v, v = s.readBlkWord (4 * n.toNat) ∧
      ((n = 15 ∧ t = (s.writeW (n.setWidth 6) v).setSeq .expand 16) ∨
       (n ≠ 15 ∧ t = (s.writeW (n.setWidth 6) v).setSeq .loadw (n.setWidth 6 + 1)))) := by
  simp only [execLoadw] at h
  split at h
  · next hc => cases h; exact .inl ⟨hc.1, hc.2, rfl⟩
  · next hc =>
    refine .inr ⟨fun h0 => by simpa [h0] using hc, _, rfl, ?_⟩
    by_cases hn : n = 15
    · subst hn; cases h; exact .inl ⟨rfl, rfl⟩
    · simp only [hn, if_false, Host.Outcome.next.injEq] at h
      exact .inr ⟨hn, h.symm⟩

/-- Everything EXPAND can do. -/
theorem execExpand_eq_next {n : BitVec 6} (h : execExpand n s = .next t) :
    16 ≤ n.toNat ∧ ∃ v,
      v = scheduleFn (s.readW (n - 16)) (s.readW (n - 15)) (s.readW (n - 7)) (s.readW (n - 2)) ∧
      ((n = 63 ∧ t = (s.writeW n v).setSeq .initwr 0) ∨
       (n ≠ 63 ∧ t = (s.writeW n v).setSeq .expand (n + 1))) := by
  simp only [execExpand] at h
  split at h
  · cases h
  · next hn =>
    refine ⟨by omega, _, rfl, ?_⟩
    by_cases h63 : n = 63
    · subst h63; cases h; exact .inl ⟨rfl, rfl⟩
    · simp only [h63, if_false, Host.Outcome.next.injEq] at h
      exact .inr ⟨h63, h.symm⟩

/-- Everything ROUND can do. -/
theorem execRound_eq_next {n : BitVec 6} (h : execRound n s = .next t) :
    (n = 63 ∧ t = (s.setWr (roundFn s.wr (kRead n) (s.readW n))).setSeq .feedfwd 0) ∨
    (n ≠ 63 ∧ t = (s.setWr (roundFn s.wr (kRead n) (s.readW n))).setSeq .round (n + 1)) := by
  simp only [execRound] at h
  by_cases h63 : n = 63
  · subst h63; cases h; exact .inl ⟨rfl, rfl⟩
  · simp only [h63, if_false, Host.Outcome.next.injEq] at h
    exact .inr ⟨h63, h.symm⟩

/-- Everything RENDER can do. -/
theorem execRender_eq_next {n : BitVec 6} (h : execRender n s = .next t) :
    (n = 63 ∧ t = (s.writeHex n.toNat (hexDigit s.hs n)).setSeq .done 0) ∨
    (n ≠ 63 ∧ t = (s.writeHex n.toNat (hexDigit s.hs n)).setSeq .render (n + 1)) := by
  simp only [execRender] at h
  by_cases h63 : n = 63
  · subst h63; cases h; exact .inl ⟨rfl, rfl⟩
  · simp only [h63, if_false, Host.Outcome.next.injEq] at h
    exact .inr ⟨h63, h.symm⟩

end Sys2Proof.Machine
end

