-- ==== Sys2Proof/Laws/Step.lean ====
section
/-! SUPPORT. What a step is, by cases: reset, an accepted command, the sequencer. -/

namespace Sys2Proof.Machine

variable {s t : State}

/-- A step with `rst` = 1. -/
theorem step_reset (h : s.rst = true) : step s = .next (s.setInput s.nextInput).resetStep := by
  simp [step, clockStep, h]

/-- A step that accepts no command. -/
theorem step_sequencer (h : s.rst = false) (hw : s.acceptedWord = none) :
    step s = sequencerStep s.beginStep := by
  simp [step, clockStep, h, hw]

/-- A step that accepts a command in a wait phase. -/
theorem step_command {w : BitVec 12} (h : s.rst = false) (hw : s.acceptedWord = some w)
    (hp : s.seq.phase.isWait = true) : step s = runCommandWord w s.beginStep := by
  simp only [step, clockStep, h, hw, Bool.false_eq_true, if_false]
  cases runCommandWord w s.beginStep <;> simp [andThen, afterCommand, Phase.isBusy, hp]

/-- A word accepted in a busy phase has the opcode of RDSTAT. -/
theorem acceptedWord_busy {w : BitVec 12} (hw : s.acceptedWord = some w)
    (hp : s.seq.phase.isWait = false) : cmdOp w = 5 := by
  simp only [State.acceptedWord] at hw
  split at hw
  · split at hw
    · next hr => cases hw; simpa [State.cmdReady, hp] using hr
    · cases hw
  · cases hw

/-- A word with the opcode of RDSTAT decodes to RDSTAT. -/
theorem decodeCommand_rdstat {w : BitVec 12} (h : cmdOp w = 5) :
    decodeCommand w = .ok (.rdstat (cmdArg w)) := by
  simp only [decodeCommand, h]
  simp

/-- A step that accepts a command in a busy phase: RDSTAT, then the micro-operation. -/
theorem step_busy {w : BitVec 12} (h : s.rst = false) (hw : s.acceptedWord = some w)
    (hp : s.seq.phase.isWait = false) :
    step s = sequencerStep (s.beginStep.respond s.status) := by
  simp only [step, clockStep, h, hw, Bool.false_eq_true, if_false, runCommandWord,
    decodeCommand_rdstat (acceptedWord_busy hw hp)]
  simp only [exec, execRdstat, andThen, afterCommand, Phase.isBusy, hp, Bool.not_false, if_true]
  rfl

/-- What the sequencer does in terms of the two fields of `SEQ`. -/
theorem sequencerStep_eq {i : Instr} (h : decodePhase s.seq.phase s.seq.t = .ok i) :
    sequencerStep s = exec i s := by
  simp [sequencerStep, h]

/-- The four cases of a step. -/
theorem step_cases (s : State) :
    (s.rst = true ∧ step s = .next (s.setInput s.nextInput).resetStep) ∨
    (s.rst = false ∧ s.acceptedWord = none ∧ step s = sequencerStep s.beginStep) ∨
    (∃ w, s.rst = false ∧ s.acceptedWord = some w ∧ s.seq.phase.isWait = true ∧
      step s = runCommandWord w s.beginStep) ∨
    (∃ w, s.rst = false ∧ s.acceptedWord = some w ∧ s.seq.phase.isWait = false ∧
      step s = sequencerStep (s.beginStep.respond s.status)) := by
  cases hr : s.rst with
  | true => exact .inl ⟨rfl, step_reset hr⟩
  | false =>
    cases hw : s.acceptedWord with
    | none => exact .inr (.inl ⟨rfl, rfl, step_sequencer hr hw⟩)
    | some w =>
      cases hp : s.seq.phase.isWait with
      | true => exact .inr (.inr (.inl ⟨w, rfl, rfl, rfl, step_command hr hw hp⟩))
      | false => exact .inr (.inr (.inr ⟨w, rfl, rfl, rfl, step_busy hr hw hp⟩))

/-- If the sequencer answers a next state, `SEQ` selects an instruction of format U and it was executed. -/
theorem sequencerStep_eq_next (h : sequencerStep s = .next t) :
    ∃ i, decodePhase s.seq.phase s.seq.t = .ok i ∧ exec i s = .next t := by
  simp only [sequencerStep, decodeSeq_word] at h
  split at h
  · next i hi => exact ⟨i, hi, h⟩
  · cases h

end Sys2Proof.Machine
end

