-- ==== Sys2Proof/Laws/Invariant.lean ====
section
/-! SUPPORT. Small lemmas about the invariant and about which instructions a legal `SEQ` selects. -/

namespace Sys2Proof.Machine

variable {s t : State}

/-- The invariant says nothing about the ports and the model's own fields. -/
theorem Inv.of_eq (h : Inv s) (e1 : t.blk = s.blk) (e2 : t.hex = s.hex) (e3 : t.seq = s.seq)
    (e4 : t.cause = s.cause) (e5 : t.len = s.len) (e6 : t.fill = s.fill) (e7 : t.ret = s.ret) : Inv t := by
  constructor
  · rw [e1]; exact h.blkWf
  · rw [e2]; exact h.hexWf
  · rw [e3]; exact h.seqLegal
  · rw [e3, e4]; exact h.causeError
  · rw [e5]; exact h.lenBytes
  · rw [e6]; exact h.fillBound
  · rw [e1, e6]; exact h.blkFilled
  · rw [e3, e5, e6, e7]; exact h.absorb
  · rw [e3, e6]; exact h.pad80
  · rw [e3, e6]; exact h.padlen
  · rw [e3, e5, e6, e7]; exact h.block
  · rw [e2, e3]; exact h.render
  · rw [e2, e3]; exact h.done

/-- The start of a step keeps the invariant. -/
theorem Inv.beginStep (h : Inv s) : Inv s.beginStep := h.of_eq rfl rfl rfl rfl rfl rfl rfl

/-- A response keeps the invariant. -/
theorem Inv.respond (h : Inv s) (v : Byte) : Inv (s.respond v) := h.of_eq rfl rfl rfl rfl rfl rfl rfl

/-- A new value of the host's queue keeps the invariant. -/
theorem Inv.setInput (h : Inv s) (l : List HostAct) : Inv (s.setInput l) :=
  h.of_eq rfl rfl rfl rfl rfl rfl rfl

/-- A memory filled up to `n` is filled up to anything below. -/
theorem Memory.filledTo_mono {m : Memory} {n k : Nat} (h : Memory.filledTo m n) (hk : k ≤ n) :
    Memory.filledTo m k := fun a ha => h a (by omega)

/-- Writing the next byte fills the memory one further. -/
theorem Memory.filledTo_write {m : Memory} {n : Nat} (b : Byte) (h : Memory.filledTo m n) :
    Memory.filledTo (Memory.write m n b) (n + 1) := by
  intro a ha
  rw [Memory.read_write]
  split
  · rfl
  · exact h a (by omega)

/-- Writing anywhere keeps a memory filled. -/
theorem Memory.filledTo_write_of {m : Memory} {n : Nat} (a : Nat) (b : Byte) (h : Memory.filledTo m n) :
    Memory.filledTo (Memory.write m a b) n := fun a' ha => Memory.isSome_read_write m a a' b (h a' ha)

/-- In the block subroutine every byte of `BLK` has been written. -/
theorem Inv.blk_written (h : Inv s) (hb : Phase.inBlock s.seq.phase = true) {a : Nat} (ha : a < 64) :
    (Memory.read s.blk a).isSome = true :=
  h.blkFilled a (by have := (h.block hb).1; omega)

end Sys2Proof.Machine
end

