-- ==== Sys2Proof/Laws/PerInstr.lean ====
section
/-! SUPPORT. A law of every instruction, one lemma per constructor: its word lies in its row of the opcode
table. -/

namespace Sys2Proof.Laws.WordOfRow

/-- The row of the instruction is one of spec/opcode_table.json, and its word matches it. -/
def Statement (i : Instr) : Prop := i.row ∈ opcodeTable ∧ i.row.covers (encode i) = true

theorem init : Statement .init := by unfold Statement; decide
theorem push (d : Byte) : Statement (.push d) := by
  refine ⟨by simp [opcodeTable, Instr.row], ?_⟩
  revert d; decide
theorem final : Statement .final := by unfold Statement; decide
theorem rdhex (i : BitVec 6) : Statement (.rdhex i) := by
  refine ⟨by simp [opcodeTable, Instr.row], ?_⟩
  revert i; decide
theorem rdstat (z : Byte) : Statement (.rdstat z) := by
  refine ⟨by simp [opcodeTable, Instr.row], ?_⟩
  revert z; decide
theorem idle : Statement .idle := by unfold Statement; decide
theorem absorb : Statement .absorb := by unfold Statement; decide
theorem pad80 : Statement .pad80 := by unfold Statement; decide
theorem padz : Statement .padz := by unfold Statement; decide
theorem padlen (t : BitVec 3) : Statement (.padlen t) := by
  refine ⟨by simp [opcodeTable, Instr.row], ?_⟩
  revert t; decide
theorem loadw (t : BitVec 4) : Statement (.loadw t) := by
  refine ⟨by simp [opcodeTable, Instr.row], ?_⟩
  revert t; decide
theorem expand (t : BitVec 6) : Statement (.expand t) := by
  refine ⟨by simp [opcodeTable, Instr.row], ?_⟩
  revert t; decide
theorem initwr : Statement .initwr := by unfold Statement; decide
theorem round (t : BitVec 6) : Statement (.round t) := by
  refine ⟨by simp [opcodeTable, Instr.row], ?_⟩
  revert t; decide
theorem feedfwd : Statement .feedfwd := by unfold Statement; decide
theorem render (t : BitVec 6) : Statement (.render t) := by
  refine ⟨by simp [opcodeTable, Instr.row], ?_⟩
  revert t; decide
theorem done : Statement .done := by unfold Statement; decide
theorem error (t : BitVec 6) : Statement (.error t) := by
  refine ⟨by simp [opcodeTable, Instr.row], ?_⟩
  revert t; decide

end Sys2Proof.Laws.WordOfRow
end

