-- ==== Sys2Proof/Tests/Slice0.lean ====
section
/-! SUPPORT. Small tests against the spec's own encodings and vectors (95_test_vectors.md, named T<n>), and
for each statement with hypotheses a witness that meets them. -/

namespace Sys2Proof.Tests

open Sys2Proof.Machine

/-! ### Helpers -/

/-- The reset state with `SEQ` set. -/
def atSeq (p : Phase) (t : BitVec 6) : State := { State.reset with seq := ⟨p, t⟩ }

/-- 64 bytes that are all zero. -/
def zeroBlock : Memory := (List.range 64).map fun a => (a, 0)

/-- The block of `pad("abc")` (T21). -/
def abcBlock : Memory :=
  Memory.write (Memory.write (Memory.write (Memory.write (Memory.write zeroBlock 0 0x61) 1 0x62) 2 0x63)
    3 0x80) 63 0x18

/-- The next state has the property. -/
def nextHas (o : Host.Outcome State Fault Refusal) (p : State → Bool) : Bool :=
  match o with
  | .next t => p t
  | .fault _ => false
  | .refused _ => false

/-- The outcome is a refusal. -/
def isRefused (o : Host.Outcome State Fault Refusal) : Bool :=
  match o with
  | .next _ => false
  | .fault _ => false
  | .refused _ => true

/-! ### Well-formedness smoke -/

theorem test_wellFormed_refuses_expand_15 : (Instr.expand 15).wellFormed = false := by decide
theorem test_wellFormed_admits_expand_16 : (Instr.expand 16).wellFormed = true := by decide

/-! ### Every constructor's word, written out from 30_encoding.md R75 and R79 -/

theorem test_decode_init : decodeCommand 0b000100000000 = .ok .init := by decide
theorem test_decode_push : decodeCommand 0b001010101011 = .ok (.push 0xAB) := by decide
theorem test_decode_final : decodeCommand 0b001100000000 = .ok .final := by decide
theorem test_decode_rdhex : decodeCommand 0b010000100101 = .ok (.rdhex 37) := by decide
theorem test_decode_rdstat : decodeCommand 0b010100000001 = .ok (.rdstat 1) := by decide
theorem test_decode_idle : decodeSeq 0b0000000000 = .ok .idle := by decide
theorem test_decode_absorb : decodeSeq 0b0001000000 = .ok .absorb := by decide
theorem test_decode_pad80 : decodeSeq 0b0010000000 = .ok .pad80 := by decide
theorem test_decode_padz : decodeSeq 0b0011000000 = .ok .padz := by decide
theorem test_decode_padlen : decodeSeq 0b0100000101 = .ok (.padlen 5) := by decide
theorem test_decode_loadw : decodeSeq 0b0101001011 = .ok (.loadw 11) := by decide
theorem test_decode_expand : decodeSeq 0b0110100101 = .ok (.expand 37) := by decide
theorem test_decode_initwr : decodeSeq 0b0111000000 = .ok .initwr := by decide
theorem test_decode_round : decodeSeq 0b1000110001 = .ok (.round 49) := by decide
theorem test_decode_feedfwd : decodeSeq 0b1001000000 = .ok .feedfwd := by decide
theorem test_decode_render : decodeSeq 0b1010011110 = .ok (.render 30) := by decide
theorem test_decode_done : decodeSeq 0b1011000000 = .ok .done := by decide
theorem test_decode_error : decodeSeq 0b1111000011 = .ok (.error 3) := by decide

theorem test_reject_zero_word : decodeCommand 0x000 = .error .reservedOpcode := by decide
theorem test_reject_opcode_6 : decodeCommand 0x600 = .error .reservedOpcode := by decide
theorem test_reject_init_arg : decodeCommand 0x101 = .error .reservedArgument := by decide
theorem test_reject_final_arg : decodeCommand 0x3FF = .error .reservedArgument := by decide
theorem test_reject_rdhex_reserved : decodeCommand 0x440 = .error .reservedArgument := by decide
theorem test_reject_phase_14 : decodeSeq 0b1110000000 = .error .reservedPhase := by decide
theorem test_reject_padlen_9 : decodeSeq 0b0100001001 = .error .reservedIndex := by decide
theorem test_reject_loadw_16 : decodeSeq 0b0101010000 = .error .reservedIndex := by decide
theorem test_reject_idle_1 : decodeSeq 0b0000000001 = .error .reservedIndex := by decide

/-! ### Word operations (T1 to T9) -/

theorem test_add_wraps : (0x12345678 + 0xF0000000 : Word) = 0x02345678 := by decide
theorem test_rotr : rotr 0x12345678 7 = 0xF02468AC := by decide
theorem test_shr_high_bit : shr 0x80000000 3 = 0x10000000 := by decide
theorem test_shr : shr 0x61626380 10 = 0x00185898 := by decide
theorem test_ssig0 : ssig0 0x12345678 = 0xE7FCE6EE := by decide
theorem test_ssig1 : ssig1 0x12345678 = 0xA1F78649 := by decide
theorem test_bsig0 : bsig0 0x12345678 = 0x66146474 := by decide
theorem test_bsig1 : bsig1 0x12345678 = 0x3561ABDA := by decide
theorem test_ch : ch 0xF0F0F0F0 0x12345678 0x9ABCDEF0 = 0x1A3C5E70 := by decide
theorem test_maj : maj 0xF0F0F0F0 0xFF00FF00 0xCCCCCCCC = 0xFCC0FCC0 := by decide
theorem test_be32 : be32 0xFF 0x00 0x00 0x01 = 0xFF000001 := by decide
theorem test_hexchar : (List.range 16).map (fun n => hexchar (BitVec.ofNat 4 n)) =
    [0x30, 0x31, 0x32, 0x33, 0x34, 0x35, 0x36, 0x37, 0x38, 0x39, 0x61, 0x62, 0x63, 0x64, 0x65, 0x66] := by
  decide
theorem test_round_third_row : roundFn ⟨1, 2, 3, 4, 5, 6, 7, 8⟩ 0 0 =
    ⟨0x54A80691, 1, 2, 3, 0x14A00292, 5, 6, 7⟩ := by decide
theorem test_tables : kRead 0 = 0x428A2F98 ∧ kRead 63 = 0xC67178F2 ∧ hinit.h = 0x5BE0CD19 := by decide
theorem test_pad_abc : pad [0x61, 0x62, 0x63] =
    [0x61, 0x62, 0x63, 0x80] ++ List.replicate 59 0 ++ [0x18] := by decide

/-! ### Commands (T62 to T73) -/

theorem test_init : nextHas (exec .init { atSeq .absorb 0 with fill := 1, len := 8 }) fun t =>
    decide (t.hs = hinit ∧ t.fill = 0 ∧ t.len = 0 ∧ t.status = 0x08) = true := by decide
theorem test_init_ignored_in_error : nextHas (exec .init { atSeq .error 0 with cause := .protocol })
    fun t => decide (t.seq.phase = .error ∧ t.cause = .protocol ∧ t.rsp = 0) = true := by decide
theorem test_push_fills_block : nextHas (exec (.push 0x61) { atSeq .absorb 0 with fill := 63, len := 504 })
    fun t => decide (t.seq = ⟨.loadw, 0⟩ ∧ t.ret = .absorb ∧ t.fill = 64 ∧ t.len = 512 ∧
      t.status = 0x01 ∧ Memory.read t.blk 63 = some 0x61) = true := by decide
theorem test_push_overflow : nextHas
    (exec (.push 0xAA) { atSeq .absorb 0 with fill := 63, len := 0xFFFFFFFFFFFFFFF8 })
    fun t => decide (t.status = 0x34 ∧ t.fill = 63 ∧ t.len = 0xFFFFFFFFFFFFFFF8 ∧ t.blk = []) = true := by
  decide
theorem test_final_idle : nextHas (exec .final (atSeq .idle 0)) fun t =>
    decide (t.status = 0x24 ∧ t.rsp = 0) = true := by decide
theorem test_final_absorb : nextHas (exec .final (atSeq .absorb 0)) fun t =>
    decide (t.seq = ⟨.pad80, 0⟩) = true := by decide
theorem test_rdhex : nextHas (exec (.rdhex 63) { atSeq .done 0 with hex := [(0, 0x65), (63, 0x35)] })
    fun t => decide (t.rsp = 0x35 ∧ t.rspValid = true ∧ t.status = 0x02) = true := by decide
theorem test_rdhex_unwritten_runs : nextHas (exec (.rdhex 5) (atSeq .done 0)) fun t =>
    decide (t.rspValid = true ∧ t.status = 0x02) = true := by decide
theorem test_rdhex_absorb : nextHas (exec (.rdhex 0) (atSeq .absorb 0)) fun t =>
    decide (t.status = 0x24) = true := by decide
theorem test_rdstat_busy : nextHas (exec (.rdstat 0xFF) (atSeq .expand 20)) fun t =>
    decide (t.rsp = 0x01) = true := by decide
theorem test_illegal_before_protocol : nextHas (step { atSeq .idle 0 with input := [.present 0x301] })
    fun t => decide (t.status = 0x14 ∧ t.rspValid = true) = true := by decide
theorem test_error_ignores_illegal_word : nextHas
    (step { atSeq .error 0 with cause := .protocol, input := [.present 0x000] })
    fun t => decide (t.status = 0x24) = true := by decide

/-! ### Micro-operations -/

theorem test_pad80 : nextHas (exec .pad80 { atSeq .pad80 0 with fill := 3 }) fun t =>
    decide (Memory.read t.blk 3 = some 0x80 ∧ t.fill = 4 ∧ t.seq = ⟨.padz, 0⟩) = true := by decide
theorem test_padz_branches_at_56 : nextHas (exec .padz { atSeq .padz 0 with fill := 56 }) fun t =>
    decide (t.seq = ⟨.padlen, 0⟩ ∧ t.fill = 56 ∧ t.blk = []) = true := by decide
theorem test_padz_calls_at_64 : nextHas (exec .padz { atSeq .padz 0 with fill := 64 }) fun t =>
    decide (t.seq = ⟨.loadw, 0⟩ ∧ t.ret.code = 1) = true := by decide
theorem test_padlen_high_byte : nextHas
    (exec (.padlen 3) { atSeq .padlen 3 with fill := 59, len := 0x0000000100000000 })
    fun t => decide (Memory.read t.blk 59 = some 0x01 ∧ t.seq = ⟨.padlen, 4⟩) = true := by decide
theorem test_padlen_last : nextHas
    (exec (.padlen 7) { atSeq .padlen 7 with fill := 63, len := 0xFFFFFFFFFFFFFFF8 })
    fun t => decide (Memory.read t.blk 63 = some 0xF8 ∧ t.seq = ⟨.loadw, 0⟩ ∧ t.ret.code = 2) = true := by
  decide
theorem test_loadw : nextHas (exec (.loadw 0) { atSeq .loadw 0 with fill := 64, blk := abcBlock })
    fun t => decide (t.readW 0 = 0x61626380 ∧ t.seq = ⟨.loadw, 1⟩) = true := by decide
theorem test_loadw_unwritten_runs : nextHas (exec (.loadw 5) (atSeq .loadw 5)) fun t =>
    decide (t.seq = ⟨.loadw, 6⟩ ∧ t.status = 0x01) = true := by decide
theorem test_loadw_block_size : nextHas (exec (.loadw 0) { atSeq .loadw 0 with fill := 10 })
    fun t => decide (t.status = 0x44 ∧ t.readW 0 = 0) = true := by decide
theorem test_expand : nextHas
    (exec (.expand 18) ((((atSeq .expand 18).writeW 0 0x61626380).writeW 15 0x18).writeW 16 0x61626380))
    fun t => decide (t.readW 18 = 0x7DA86405 ∧ t.seq = ⟨.expand, 19⟩) = true := by decide
theorem test_expand_last : nextHas (exec (.expand 63) (atSeq .expand 63)) fun t =>
    decide (t.seq = ⟨.initwr, 0⟩) = true := by decide
theorem test_initwr : nextHas (exec .initwr { atSeq .initwr 0 with hs := hinit }) fun t =>
    decide (t.wr.e = 0x510E527F ∧ t.seq = ⟨.round, 0⟩) = true := by decide
theorem test_round_abc_0 : nextHas
    (exec (.round 0) { (atSeq .round 0).writeW 0 0x61626380 with wr := hinit }) fun t =>
    decide (t.wr = ⟨0x5D6AEBCD, 0x6A09E667, 0xBB67AE85, 0x3C6EF372, 0xFA2A4622, 0x510E527F, 0x9B05688C,
      0x1F83D9AB⟩) = true := by decide
theorem test_round_last : nextHas (exec (.round 63) (atSeq .round 63)) fun t =>
    decide (t.seq = ⟨.feedfwd, 0⟩) = true := by decide
theorem test_feedfwd : nextHas
    (exec .feedfwd { atSeq .feedfwd 0 with
      hs := hinit, fill := 64, ret := .render,
      wr := ⟨0x506E3058, 0xD39A2165, 0x04D24D6C, 0xB85E2CE9, 0x5EF50F24, 0xFB121210, 0x948D25B6,
        0x961F4894⟩ })
    fun t => decide (t.hs = ⟨0xBA7816BF, 0x8F01CFEA, 0x414140DE, 0x5DAE2223, 0xB00361A3, 0x96177A9C,
      0xB410FF61, 0xF20015AD⟩ ∧ t.fill = 0 ∧ t.seq = ⟨.render, 0⟩) = true := by decide
theorem test_render_keeps_zeros : nextHas
    (exec (.render 56) { atSeq .render 56 with hs := ⟨0, 0, 0, 0, 0, 0, 0, 0x00635E66⟩ })
    fun t => decide (Memory.read t.hex 56 = some 0x30) = true := by decide
theorem test_render_letter : nextHas
    (exec (.render 0) { atSeq .render 0 with hs := ⟨0xE3B0C442, 0, 0, 0, 0, 0, 0, 0⟩ })
    fun t => decide (Memory.read t.hex 0 = some 0x65 ∧ t.seq = ⟨.render, 1⟩) = true := by decide

/-! ### Reset and the table question (T80) -/

theorem test_reset_step : nextHas
    (step { atSeq .expand 37 with ret := .render, fill := 64, len := 16, input := [.reset] })
    fun t => decide (t.seq = ⟨.idle, 0⟩ ∧ t.ret.code = 0 ∧ t.fill = 0 ∧ t.len = 0 ∧ t.status = 0) = true := by
  decide
theorem test_table_word_command : decodeTableWord 12 0x261 = some (.push 0x61) := by decide
theorem test_table_word_seq : decodeTableWord 10 0x23F = some (.round 63) := by decide
theorem test_fetch_word : step (State.reset.withFetchWord 12 0x100) =
    exec .init { State.reset with input := [] } := rfl

/-! ### States that meet the invariant -/

/-- A digest is open and 3 bytes have been pushed. -/
def absorbState : State :=
  { atSeq .absorb 0 with fill := 3, len := 24, blk := [(0, 0x61), (1, 0x62), (2, 0x63)] }

/-- The last block is about to be processed. -/
def loadwState : State := { atSeq .loadw 0 with fill := 64, ret := .render, len := 24, blk := abcBlock }

/-- A digest can be read. -/
def doneState : State := { atSeq .done 0 with ret := .render, hex := zeroBlock }

theorem zeroBlock_filled : Memory.filledTo zeroBlock 64 := by unfold Memory.filledTo; decide
theorem abcBlock_filled : Memory.filledTo abcBlock 64 := by unfold Memory.filledTo; decide

theorem witness_inv_absorb : Inv absorbState where
  blkWf := by decide
  hexWf := by decide
  seqLegal := by decide
  causeError := by decide
  lenBytes := by decide
  fillBound := by decide
  blkFilled := by unfold Memory.filledTo; decide
  absorb := by decide
  pad80 := by decide
  padlen := by decide
  block := by decide
  render := fun h => absurd h (by decide)
  done := fun h => absurd h (by decide)

theorem witness_inv_loadw : Inv loadwState where
  blkWf := by decide
  hexWf := by decide
  seqLegal := by decide
  causeError := by decide
  lenBytes := by decide
  fillBound := by decide
  blkFilled := abcBlock_filled
  absorb := by decide
  pad80 := by decide
  padlen := by decide
  block := by decide
  render := fun h => absurd h (by decide)
  done := fun h => absurd h (by decide)

theorem witness_inv_done : Inv doneState where
  blkWf := by decide
  hexWf := by decide
  seqLegal := by decide
  causeError := by decide
  lenBytes := by decide
  fillBound := by decide
  blkFilled := by unfold Memory.filledTo; decide
  absorb := by decide
  pad80 := by decide
  padlen := by decide
  block := by decide
  render := fun h => absurd h (by decide)
  done := fun _ => zeroBlock_filled

/-! ### Witnesses: a state and operands that meet the hypotheses of each statement, clause by clause -/

theorem witness_EncodeInvertsDecode : decode (.cmd 0x43F) = .ok (.rdhex 63) ∧
    decode (.seq 0x13F) = .error .reservedIndex ∧ decode (.seq 0x14F) = .ok (.loadw 15) := by decide

theorem witness_DecoderFollowsTheOpcodeTable :
    ∃ r ∈ opcodeTable, r.covers (.seq 0x107) = true ∧ r.mnemonic = "PADLEN" := by decide

/-- A command in a wait phase; the sequencer with nothing presented. -/
theorem witness_StepRunsTheDecodedInstruction :
    (∃ w, ({ atSeq .absorb 0 with input := [.present 0x261] } : State).acceptedWord = some w ∧
      decodeCommand w = .ok (.push 0x61)) ∧
    (atSeq .absorb 0).seq.phase.isWait = true ∧ (atSeq .absorb 0).rst = false ∧
    (atSeq .padlen 7).acceptedWord = none ∧ decodeSeq (atSeq .padlen 7).seq.word = .ok (.padlen 7) :=
  ⟨⟨0x261, by decide, by decide⟩, by decide, by decide, by decide, by decide⟩

/-- Reset in a busy phase; RDSTAT in a busy phase; a busy phase alone; a command; nothing. -/
theorem witness_OneThingPerStep :
    ({ atSeq .round 63 with input := [.reset] } : State).rst = true ∧
    ({ atSeq .round 63 with input := [.offer 0x5FF] } : State).acceptedWord = some 0x5FF ∧
    (atSeq .round 63).seq.phase.isBusy = true ∧ decodeSeq (atSeq .round 63).seq.word = .ok (.round 63) ∧
    ({ atSeq .done 0 with input := [.present 0x400] } : State).acceptedWord = some 0x400 ∧
    (atSeq .done 0).acceptedWord = none ∧ (atSeq .done 0).seq.legal = true := by decide

theorem witness_HeldWordHasNoEffect :
    (atSeq .pad80 0).seq.phase.isBusy = true ∧ cmdOp 0x261 ≠ 5 := by decide

theorem witness_ResponseExactlyWhenAccepted :
    ∃ t, step { atSeq .idle 0 with input := [.present 0x000] } = .next t ∧ t.rspValid = true ∧
      t.cause = .illegalCmd := ⟨_, rfl, by decide, by decide⟩

theorem witness_StatusReadDisturbsNothing :
    (atSeq .round 5).seq.legal = true ∧ cmdOp 0x500 = 5 ∧
    ∃ t, step { atSeq .round 5 with input := [.present 0x500] } = .next t ∧ t.seq = ⟨.round, 6⟩ ∧
      t.rsp = 0x01 := ⟨by decide, by decide, _, rfl, by decide, by decide⟩

theorem witness_InitOpensADigest :
    (atSeq .done 0).seq.phase ∈ [Phase.idle, Phase.absorb, Phase.done] ∧ (0xFF : Byte) ≠ 0 ∧
    (atSeq .error 9).seq.phase = .error ∧ (atSeq .render 63).seq.phase.isBusy = true := by decide

/-- One byte below the limit of `LEN` and of the block; the last byte of a block; the limit. -/
theorem witness_PushAppendsAByte :
    let s : State := { atSeq .absorb 0 with fill := 62, len := 0xFFFFFFFFFFFFFFF0 }
    let s' : State := { atSeq .absorb 0 with fill := 63, len := 504 }
    let s'' : State := { atSeq .absorb 0 with fill := 63, len := 0xFFFFFFFFFFFFFFF8 }
    (s.seq.phase = .absorb ∧ s.len.toNat ≤ 2 ^ 64 - 16 ∧ s.fill.toNat < 63) ∧
    (s'.seq.phase = .absorb ∧ s'.len.toNat ≤ 2 ^ 64 - 16 ∧ s'.fill = 63) ∧
    (s''.seq.phase = .absorb ∧ s''.len.toNat = 2 ^ 64 - 8) ∧
    (atSeq .done 0).seq.phase ∈ [Phase.idle, Phase.done] ∧
    (atSeq .loadw 0).seq.phase.isBusy = true := by decide

theorem witness_FinalClosesTheMessage :
    (atSeq .absorb 0).seq.phase = .absorb ∧ (atSeq .done 0).seq.phase ∈ [Phase.idle, Phase.done] ∧
    (0x01 : Byte) ≠ 0 := by decide

theorem witness_RdhexReadsACharacter :
    doneState.seq.phase = .done ∧ Memory.read doneState.hex (63 : BitVec 6).toNat = some 0 ∧
    (atSeq .absorb 0).seq.phase ∈ [Phase.idle, Phase.absorb] ∧ (1 : BitVec 2) ≠ 0 := by decide

/-- FINAL with an argument in IDLE; PUSH in DONE; FINAL in IDLE; RDHEX in ABSORB; PUSH at the limit. -/
theorem witness_ChecksAreMadeInTheFixedOrder :
    ({ atSeq .idle 0 with input := [.present 0x301] } : State).acceptedWord = some 0x301 ∧
    decodeCommand 0x301 = .error .reservedArgument ∧
    ({ atSeq .done 0 with input := [.present 0x261] } : State).acceptedWord = some 0x261 ∧
    decodeCommand 0x261 = .ok (.push 0x61) ∧ decodeCommand 0x300 = .ok .final ∧
    decodeCommand 0x400 = .ok (.rdhex 0) ∧ (atSeq .absorb 0).seq.phase ≠ .done ∧
    ({ atSeq .round 63 with input := [.offer 0x5FF] } : State).acceptedWord = some 0x5FF ∧
    cmdOp 0x5FF = 5 ∧ cmdOp 0x000 ≠ 5 ∧ (atSeq .error 7).cmdReady 0x000 = true ∧
    (0xFFFFFFFFFFFFFFF0 : BitVec 64).toNat ≠ 2 ^ 64 - 8 ∧
    (0xFFFFFFFFFFFFFFF8 : BitVec 64).toNat = 2 ^ 64 - 8 := by decide

/-- The boundary words of R77: the last illegal and the first legal ones. -/
theorem witness_IllegalWordsRaiseIllegalCmd :
    (∃ t, step { atSeq .absorb 0 with input := [.offer 0x440] } = .next t ∧ t.cause = .illegalCmd) ∧
    (∃ t, step { atSeq .absorb 0 with input := [.offer 0x0FF] } = .next t ∧ t.cause = .illegalCmd) ∧
    (∃ t, step { atSeq .absorb 0 with input := [.offer 0x600] } = .next t ∧ t.cause = .illegalCmd) ∧
    (∃ t, step { atSeq .absorb 0 with input := [.offer 0x43F] } = .next t ∧ t.cause = .protocol) ∧
    (∃ t, step { atSeq .absorb 0 with input := [.offer 0x5FF] } = .next t ∧ t.cause = .noFault) :=
  ⟨⟨_, rfl, by decide⟩, ⟨_, rfl, by decide⟩, ⟨_, rfl, by decide⟩, ⟨_, rfl, by decide⟩,
    ⟨_, rfl, by decide⟩⟩

theorem witness_ErrorIsLeftOnlyByReset :
    (atSeq .error 5).seq.phase = .error ∧ (atSeq .error 5).acceptedWord = none ∧
    ({ atSeq .error 5 with input := [.present 0x5FF] } : State).acceptedWord = some 0x5FF ∧
    ({ atSeq .error 5 with input := [.present 0x100] } : State).acceptedWord = some 0x100 ∧
    ∃ t, step { atSeq .error 5 with input := [.reset] } = .next t ∧ t.seq.phase ≠ .error :=
  ⟨by decide, by decide, by decide, by decide, _, rfl, by decide⟩

theorem witness_Pad80AppendsTheFlagByte :
    ({ atSeq .pad80 0 with fill := 63 } : State).fill.toNat ≤ 63 := by decide

theorem witness_PadzAppendsAZeroOrBranches :
    ({ atSeq .padz 0 with fill := 64 } : State).fill = 64 ∧
    ({ atSeq .padz 0 with fill := 56 } : State).fill = 56 ∧
    ({ atSeq .padz 0 with fill := 63 } : State).fill.toNat ≤ 63 ∧
    ({ atSeq .padz 0 with fill := 63 } : State).fill ≠ 56 := by decide

theorem witness_PadlenAppendsALengthByte :
    ({ atSeq .padlen 7 with fill := 63 } : State).fill.toNat ≤ 63 ∧ (6 : BitVec 3).toNat < 7 ∧
    (7 : BitVec 3).toNat = 7 := by decide

theorem witness_LoadwLoadsAScheduleWord :
    loadwState.fill = 64 ∧ 0x18 = loadwState.readBlk (4 * (15 : BitVec 4).toNat + 3) ∧
    0 = loadwState.readBlk 60 ∧ 0 = loadwState.readBlk 61 ∧ 0 = loadwState.readBlk 62 ∧
    ({ loadwState with fill := 63 } : State).fill ≠ 64 := by decide

theorem witness_ExpandDerivesAScheduleWord :
    16 ≤ (16 : BitVec 6).toNat ∧ (atSeq .expand 16).w[(16 : BitVec 6).toNat - 16]? = some 0 ∧
    (atSeq .expand 16).w[(16 : BitVec 6).toNat - 2]? = some 0 ∧
    (atSeq .expand 63).w[(63 : BitVec 6).toNat - 2]? = some 0 := by decide

theorem witness_RoundComputesOneRound :
    (atSeq .round 63).wr = ⟨0, 0, 0, 0, 0, 0, 0, 0⟩ ∧ 0xc67178f2 = kRead 63 ∧
    (atSeq .round 63).w[(63 : BitVec 6).toNat]? = some 0 := by decide

theorem witness_FeedfwdAddsAndReturns :
    (atSeq .feedfwd 0).hs = ⟨0, 0, 0, 0, 0, 0, 0, 0⟩ ∧
    (atSeq .feedfwd 0).wr = ⟨0, 0, 0, 0, 0, 0, 0, 0⟩ := by decide

theorem witness_RenderProducesACharacter :
    (7 : Fin 8).val = (63 : BitVec 6).toNat / 8 ∧
    0 = ((atSeq .render 63).hs.get 7).toNat / 2 ^ (28 - 4 * ((63 : BitVec 6).toNat % 8)) % 16 := by decide

theorem witness_StopsAreNamed :
    (15 : BitVec 6).toNat < 16 ∧ 63 < (64 : BitVec 7).toNat ∧ 64 < (65 : BitVec 7).toNat ∧
    (atSeq .idle 1).acceptedWord = none ∧ (atSeq .idle 1).seq.legal = false := by decide

theorem witness_FaultEntryKeepsEverythingElse :
    (∃ t, step { atSeq .idle 0 with input := [.offer 0x261] } = .next t ∧ t.seq.phase = .error) ∧
    (∃ t, step { atSeq .loadw 0 with input := [] } = .next t ∧ t.seq.phase = .error) :=
  ⟨⟨_, rfl, by decide⟩, ⟨_, rfl, by decide⟩⟩

theorem witness_BlockSizeFaultIsUnreachable :
    Inv loadwState ∧ loadwState.seq = ⟨.loadw, 0⟩ ∧ loadwState.cause ≠ .blockSize ∧
    ∃ t, step loadwState = .next t := ⟨witness_inv_loadw, rfl, by decide, _, rfl⟩

theorem witness_StatusByPhase :
    Inv absorbState ∧ absorbState.seq.phase = .absorb ∧ Inv loadwState ∧
    loadwState.seq.phase.isBusy = true ∧ Inv doneState ∧ doneState.seq.phase = .done :=
  ⟨witness_inv_absorb, rfl, witness_inv_loadw, rfl, witness_inv_done, rfl⟩

theorem witness_ResetStepClearsTheControlState :
    ({ loadwState with input := [.reset, .present 0x100] } : State).rst = true ∧
    (loadwState : State).rst = false ∧
    ({ atSeq .error 7 with cause := .illegalCmd } : State).cause.code ≠ 0 := by decide

/-- A frame is about instructions that answer a next state: one of each kind does. -/
theorem witness_Frames :
    (∃ t, exec (.push 0x64) absorbState = .next t) ∧ (∃ t, exec (.loadw 15) loadwState = .next t) ∧
    (∃ t, exec (.rdhex 63) doneState = .next t) ∧ (∃ t, exec .feedfwd (atSeq .feedfwd 0) = .next t) ∧
    blkStore (.push 0x64) absorbState = some 3 ∧ hexStore (.render 63) = some 63 ∧
    scheduleStore (.loadw 15) = some 15 :=
  ⟨⟨_, rfl⟩, ⟨_, rfl⟩, ⟨_, rfl⟩, ⟨_, rfl⟩, by decide, by decide, by decide⟩

theorem witness_StepKeepsTheInvariant :
    Inv absorbState ∧ ∃ t, step { absorbState with input := [.present 0x300] } = .next t ∧
      t.seq = ⟨.pad80, 0⟩ := ⟨witness_inv_absorb, _, rfl, by decide⟩

theorem witness_EngineNeverStops : Inv doneState := witness_inv_done

/-- A word is loaded from the block, and a character read, without a free value. -/
theorem witness_FreeValuesAreNeverObserved :
    Inv loadwState ∧ loadwState.seq.phase = .loadw ∧ loadwState.rst = false ∧
    (∃ t, step loadwState = .next t ∧ t.readW 0 = 0x61626380) ∧
    Inv (doneState.setInput [.present 0x43F]) ∧
    ∃ t, step (doneState.setInput [.present 0x43F]) = .next t ∧ t.rsp = 0 :=
  ⟨witness_inv_loadw, rfl, rfl, ⟨_, rfl, by decide⟩, witness_inv_done.setInput _, _, rfl, by decide⟩

theorem witness_SequencerFollowsTheArrows :
    Inv loadwState ∧ ∃ t, step loadwState = .next t ∧ t.seq = ⟨.loadw, 1⟩ :=
  ⟨witness_inv_loadw, _, rfl, by decide⟩

theorem witness_LenNeverWraps :
    ∃ t, step { absorbState with input := [.present 0x264] } = .next t ∧ t.len = 32 :=
  ⟨_, rfl, by decide⟩

theorem witness_BusyTimeIsBounded :
    Inv loadwState ∧ loadwState.seq.phase.isBusy = true ∧ ∀ a ∈ loadwState.input, a ≠ .reset :=
  ⟨witness_inv_loadw, by decide, by decide⟩

theorem witness_PadderCompletesTheBlock :
    let s : State := { atSeq .pad80 0 with fill := 55 }
    let s' : State := { atSeq .pad80 0 with fill := 56 }
    let s'' : State := { atSeq .padz 0 with fill := 0 }
    (s.input = [] ∧ s.seq = ⟨.pad80, 0⟩ ∧ s.fill.toNat ≤ 55) ∧
    (s'.input = [] ∧ s'.seq = ⟨.pad80, 0⟩ ∧ 56 ≤ s'.fill.toNat ∧ s'.fill.toNat ≤ 63) ∧
    (s''.input = [] ∧ s''.seq = ⟨.padz, 0⟩ ∧ s''.fill.toNat = 0) := by decide

/-- For the expander and for the block subroutine. -/
theorem witness_BlockSubroutineCompresses :
    let s : State := { loadwState with blk := zeroBlock }
    s.input = [] ∧ s.seq = ⟨.loadw, 0⟩ ∧ s.fill = 64 ∧
    List.replicate 64 (0 : Byte) = (List.range 64).map s.readBlk := by decide

theorem witness_RendererWritesTheDigest :
    (atSeq .render 0).input = [] ∧ (atSeq .render 0).seq = ⟨.render, 0⟩ := by decide

theorem witness_DigestEqualsTheReference :
    ∃ s : State, s.seq.phase ∈ [Phase.idle, Phase.absorb, Phase.done] ∧
      ([0x61, 0x62, 0x63] : List Byte).length < 2 ^ 61 ∧ s.input = digestScript [0x61, 0x62, 0x63] :=
  ⟨{ State.reset with input := digestScript [0x61, 0x62, 0x63] }, by decide, by decide, rfl⟩

/-- A wait, a status read held back by nothing, and one withdrawn, in the script of the empty message. -/
theorem witness_WaitingAndStatusReadsDoNotMatter :
    ∃ s : State, s.seq.legal = true ∧ s.seq.phase ∈ [Phase.idle, Phase.absorb, Phase.done] ∧
      s.input.filter HostAct.isScriptLine = digestScript [] ∧ HostAct.quiet ∈ s.input ∧
      HostAct.present 0x500 ∈ s.input ∧ HostAct.offer 0x5FF ∈ s.input :=
  ⟨{ atSeq .absorb 0 with
      input := [.quiet, line .init, .present 0x500, line .final, .offer 0x5FF] ++ rdDigest },
    by decide, by decide, by decide, by decide, by decide, by decide⟩

/-- Two engines with different data and different history. -/
theorem witness_HistoryDoesNotMatter :
    ∃ s s' : State, Inv s ∧ Inv s' ∧ s.seq.phase ∈ [Phase.idle, Phase.absorb, Phase.done] ∧
      s'.seq.phase ∈ [Phase.idle, Phase.absorb, Phase.done] ∧ s.blk ≠ s'.blk ∧ s.ret ≠ s'.ret ∧
      s.input = [line .init, line .final] ∧ s'.input = [line .init, line .final] :=
  ⟨absorbState.setInput [line .init, line .final], doneState.setInput [line .init, line .final],
    witness_inv_absorb.setInput _, witness_inv_done.setInput _, by decide, by decide, by decide,
    by decide, rfl, rfl⟩

theorem witness_RotateMovesBits : 1 ≤ 31 ∧ 31 ≤ 31 ∧ rotr 0x61626380 31 = 0xC2C4C700 := by decide

theorem witness_PadProperties :
    (List.replicate 55 (0x61 : Byte)).length % 64 ≤ 55 ∧
    56 ≤ (List.replicate 56 (0x61 : Byte)).length % 64 ∧
    (List.replicate 56 (0x61 : Byte)).length < 2 ^ 61 := by decide

end Sys2Proof.Tests
end

section
/-! PROOFS. `STATUS` (10_state.md R33) and its four flags (R27): which flag a phase sets, where each field
lies in the byte, and what the byte is in each phase. -/

namespace Sys2Proof

/-- A phase is busy or one of the four wait phases (30_encoding.md R78). -/
theorem Phase.busy_or_wait (p : Phase) :
    p.isBusy = true ∨ p = .idle ∨ p = .absorb ∨ p = .done ∨ p = .error := by
  cases p <;> decide

theorem Phase.ne_of_isBusy {p q : Phase} (hp : p.isBusy = true) (hq : q.isBusy = false) : p ≠ q := by
  rintro rfl
  simp [hp] at hq

/-- The flags of a phase at their places in `STATUS`: the values of R33, `CAUSE` left out. -/
def Phase.flagByte : Phase → Byte
  | .idle => 0x00
  | .absorb => 0x08
  | .done => 0x02
  | .error => 0x04
  | _ => 0x01

theorem Phase.flagByte_of_isBusy {p : Phase} (h : p.isBusy = true) : p.flagByte = 0x01 := by
  revert h; cases p <;> decide

end Sys2Proof

namespace Sys2Proof.Machine

variable {s : State}

/-! ### The flags -/

/-- In a busy phase `BUSY` is the only flag. -/
theorem flags_of_isBusy (h : s.seq.phase.isBusy = true) :
    s.busy = true ∧ s.done = false ∧ s.err = false ∧ s.active = false :=
  ⟨h, decide_eq_false (Phase.ne_of_isBusy h rfl), decide_eq_false (Phase.ne_of_isBusy h rfl),
    decide_eq_false (Phase.ne_of_isBusy h rfl)⟩

/-- Every phase but IDLE sets exactly one flag (R27). -/
theorem count_flags (s : State) :
    [s.busy, s.done, s.err, s.active].count true = if s.seq.phase = .idle then 0 else 1 := by
  rcases s.seq.phase.busy_or_wait with hb | hp | hp | hp | hp
  · obtain ⟨hbusy, hdone, herr, hactive⟩ := flags_of_isBusy hb
    rw [hbusy, hdone, herr, hactive, if_neg (Phase.ne_of_isBusy hb rfl)]
    rfl
  all_goals simp [State.busy, State.done, State.err, State.active, Phase.isBusy, Phase.isWait, hp]

/-! ### The byte -/

/-- The six fields of `STATUS` lie side by side (R33): each is read back from its own bits, whatever the
seven bits of the others are. -/
theorem status_fields (s : State) :
    s.status.getLsbD 0 = s.busy ∧ s.status.getLsbD 1 = s.done ∧ s.status.getLsbD 2 = s.err ∧
    s.status.getLsbD 3 = s.active ∧ s.status.extractLsb' 4 3 = s.cause.code ∧
    s.status.getLsbD 7 = false := by
  unfold State.status
  generalize s.cause.code = c, s.active = a, s.err = e, s.done = d, s.busy = b
  revert c a e d b
  decide

/-- `STATUS` is the flags of the phase with the code of `CAUSE` above them. -/
theorem status_eq (s : State) : s.status = s.seq.phase.flagByte + 16 * s.cause.code.setWidth 8 := by
  unfold State.status State.busy State.done State.err State.active
  generalize s.cause.code = c, s.seq.phase = p
  cases p <;> revert c <;> decide

/-- Outside ERROR `CAUSE` is 0 (R31), which leaves the flags alone in `STATUS`. -/
theorem Inv.status_of_phase {p : Phase} (h : Inv s) (hp : s.seq.phase = p) (hne : p ≠ .error) :
    s.status = p.flagByte := by
  have hc : s.cause = .noFault := not_not.1 (mt h.causeError.1 (hp ▸ hne))
  rw [status_eq, hc, hp]
  exact BitVec.add_zero _

/-! ### The obligations -/

/-- Settles O31: the fields hold in every state; the values need the invariant only for `CAUSE` = 0 outside
ERROR. -/
theorem statusByPhase : Obligations.StatusByPhase := by
  intro s
  obtain ⟨hbusy, hdone, herr, hactive, hcause, htop⟩ := status_fields s
  refine ⟨hbusy, hdone, herr, hactive, hcause, htop, fun hinv => ⟨?idle, ?absorb, ?busy, ?done, ?error⟩⟩
  case idle => exact fun hp => hinv.status_of_phase hp (by decide)
  case absorb => exact fun hp => hinv.status_of_phase hp (by decide)
  case busy =>
    intro hb
    rw [hinv.status_of_phase rfl (Phase.ne_of_isBusy hb rfl), Phase.flagByte_of_isBusy hb]
  case done => exact fun hp => hinv.status_of_phase hp (by decide)
  case error =>
    intro hp
    rw [status_eq, hp, Phase.flagByte]

/-- Settles O32: the count of the flags is 0 in IDLE and 1 in every other phase. -/
theorem atMostOneStatusFlag : Obligations.AtMostOneStatusFlag := by
  intro s
  rw [count_flags]
  split <;> simp [*]

end Sys2Proof.Machine
end

section
/-! PROOFS. One thing per step (30_encoding.md R74): what the sequencer does on the word of `SEQ`, and that it
does nothing in a wait phase. -/

namespace Sys2Proof.Machine

/-- The legal values of `SEQ` in a wait phase (10_state.md R24): only ERROR keeps an index (R186). -/
theorem Seq.cases_of_isWait {q : Seq} (hp : q.phase.isWait = true) (hl : q.legal = true) :
    q = ⟨.idle, 0⟩ ∨ q = ⟨.absorb, 0⟩ ∨ q = ⟨.done, 0⟩ ∨ ∃ t, q = ⟨.error, t⟩ := by
  obtain ⟨p, t⟩ := q
  rcases p.busy_or_wait with hb | rfl | rfl | rfl | rfl
  · simp [Phase.isBusy, hp] at hb
  · simpa [Seq.legal] using hl
  · simpa [Seq.legal] using hl
  · simpa [Seq.legal] using hl
  · exact .inr (.inr (.inr ⟨t, rfl⟩))

variable {s : State}

/-- `sequencerStep_eq` for `SEQ` given as its 10-bit word. -/
theorem sequencerStep_of_decodeSeq {i : Instr} (h : decodeSeq s.seq.word = .ok i) :
    sequencerStep s = exec i s :=
  sequencerStep_eq (by rw [← decodeSeq_word, h])

/-- In a wait phase the sequencer does nothing (44_top_level.md R160 to R163). -/
theorem sequencerStep_wait (hp : s.seq.phase.isWait = true) (hl : s.seq.legal = true) :
    sequencerStep s = .next s := by
  rcases Seq.cases_of_isWait hp hl with h | h | h | ⟨t, h⟩
  · exact sequencerStep_eq (i := .idle) (by rw [h]; rfl)
  · exact sequencerStep_eq (i := .absorb) (by rw [h]; rfl)
  · exact sequencerStep_eq (i := .done) (by rw [h]; rfl)
  · exact sequencerStep_eq (i := .error t) (by rw [h]; rfl)

/-- Settles O6: the cases of a step, with what the sequencer does in a busy and in a wait phase. -/
theorem oneThingPerStep : Obligations.OneThingPerStep := by
  intro s
  refine ⟨step_reset, ?statusRead, ?microOperation, fun w => step_command, ?nothing⟩
  case statusRead =>
    intro w hr hw hb
    have hp : s.seq.phase.isWait = false := by simpa [Phase.isBusy] using hb
    exact ⟨acceptedWord_busy hw hp, fun i hi => (step_busy hr hw hp).trans (sequencerStep_of_decodeSeq hi)⟩
  case microOperation =>
    intro i hr hw _ hi
    exact (step_sequencer hr hw).trans (sequencerStep_of_decodeSeq hi)
  case nothing =>
    intro hr hw hp hl
    exact (step_sequencer hr hw).trans (sequencerStep_wait hp hl)

end Sys2Proof.Machine
end

section
/-! PROOFS. `ch` and `maj` bit by bit (40_primitives.md R99, R100). -/

namespace Sys2Proof.Machine

/-- `ch` selects: a bit of `x` chooses between the bits of `y` and `z` (R99). -/
theorem getLsbD_ch (x y z : Word) (i : Nat) :
    (ch x y z).getLsbD i = if x.getLsbD i = true then y.getLsbD i else z.getLsbD i := by
  by_cases hi : i < 32
  · simp only [ch, BitVec.getLsbD_xor, BitVec.getLsbD_and, BitVec.getLsbD_not, hi, decide_true, Bool.true_and]
    cases x.getLsbD i <;> simp
  · have out (v : Word) : v.getLsbD i = false := v.getLsbD_of_ge i (by omega)
    simp [out]

/-- A bit of `maj` is the parity of the three products of two bits, which is their majority (R100). -/
theorem getLsbD_maj (x y z : Word) (i : Nat) :
    (maj x y z).getLsbD i = true ↔ 2 ≤ [x.getLsbD i, y.getLsbD i, z.getLsbD i].count true := by
  simp only [maj, BitVec.getLsbD_xor, BitVec.getLsbD_and]
  generalize x.getLsbD i = a, y.getLsbD i = b, z.getLsbD i = c
  revert a b c
  decide

/-- Settles O55: the formulas are the definitions, the bits are `getLsbD_ch` and `getLsbD_maj`. -/
theorem choiceAndMajorityByBit : Obligations.ChoiceAndMajorityByBit := fun x y z i =>
  ⟨rfl, rfl, getLsbD_ch x y z i, getLsbD_maj x y z i⟩

end Sys2Proof.Machine
end

section
/-! PROOFS. The padded message (40_primitives.md R106, R107): its length, and its last eight bytes read as a
big-endian integer. -/

namespace Sys2Proof.Machine

/-! ### The length -/

theorem length_lengthField (n : Nat) : (lengthField n).length = 8 := by
  simp [lengthField]

theorem length_pad (m : List Byte) : (pad m).length = m.length + 1 + padZeros m.length + 8 := by
  simp only [pad, List.length_append, List.length_singleton, List.length_replicate, length_lengthField]

/-- The zeros fill the block in which the marker stands if that leaves room for the length field (R107 (a)). -/
theorem length_pad_of_le {m : List Byte} (h : m.length % 64 ≤ 55) :
    (pad m).length = 64 * (m.length / 64 + 1) := by
  rw [length_pad, padZeros]
  omega

/-- Else they fill one block more (R107 (a)). -/
theorem length_pad_of_ge {m : List Byte} (h : 56 ≤ m.length % 64) :
    (pad m).length = 64 * (m.length / 64 + 2) := by
  rw [length_pad, padZeros]
  omega

/-! ### The two ends -/

theorem prefix_pad (m : List Byte) : m <+: pad m := by
  simp [pad, List.append_assoc]

/-- The last eight bytes are the length field. -/
theorem drop_pad (m : List Byte) : (pad m).drop ((pad m).length - 8) = lengthField m.length := by
  have h : (pad m).length - 8 = (m ++ [0x80] ++ List.replicate (padZeros m.length) 0x00).length := by
    simp only [length_pad, List.length_append, List.length_singleton, List.length_replicate,
      Nat.add_sub_cancel]
  rw [h, pad, List.drop_left]

/-! ### The length field as an integer -/

theorem toNat_lenByte (len : BitVec 64) (t : Nat) :
    (lenByte len t).toNat = len.toNat / 2 ^ (56 - 8 * t) % 256 := by
  rw [lenByte, BitVec.extractLsb'_toNat, Nat.shiftRight_eq_div_pow]

/-- The first `k` bytes of `len`, read big-endian, are its upper `8 k` bits. -/
theorem foldl_lenByte (len : BitVec 64) {k : Nat} (hk : k ≤ 8) :
    ((List.range k).map (lenByte len)).foldl (fun v b => v * 256 + b.toNat) 0 =
      len.toNat / 2 ^ (64 - 8 * k) := by
  induction k with
  | zero => exact (Nat.div_eq_of_lt len.isLt).symm
  | succ k ih =>
    have hexp : 64 - 8 * k = 56 - 8 * k + 8 := by omega
    have hnext : 64 - 8 * (k + 1) = 56 - 8 * k := by omega
    rw [List.range_succ, List.map_append, List.foldl_append, ih (by omega), hnext, hexp, Nat.pow_add,
      ← Nat.div_div_eq_div_mul]
    simp only [List.map_cons, List.map_nil, List.foldl_cons, List.foldl_nil, toNat_lenByte]
    omega

/-- Read big-endian, the length field is the bit length (R107 (c)); below 2^61 bytes it fits in 64 bits. -/
theorem foldl_lengthField {n : Nat} (hn : n < 2 ^ 61) :
    (lengthField n).foldl (fun v b => v * 256 + b.toNat) 0 = 8 * n := by
  rw [lengthField, foldl_lenByte _ le_rfl, BitVec.toNat_ofNat]
  omega

/-- Settles O57: (a) and (d) count the zeros, (b) is the form of `pad`, (c) reads the length field. -/
theorem padProperties : Obligations.PadProperties := by
  intro m hm
  refine ⟨length_pad_of_le, length_pad_of_ge, ⟨prefix_pad m, ?longer⟩, ?bitLength, ?one, ?two⟩
  case longer =>
    rw [length_pad]
    omega
  case bitLength => rw [drop_pad, foldl_lengthField hm]
  case one => exact fun h => by rw [length_pad_of_le (by omega), h]
  case two => exact fun h => by rw [length_pad_of_ge (by omega), h]

end Sys2Proof.Machine
end

section
/-! PROOFS. The padder's three micro-operations (41_padding.md R120 to R122): one equation per case, each a byte
appended to the block or a branch. -/

namespace Sys2Proof.Machine

variable {s : State}

/-! ### PAD80 and PADZ -/

theorem execPad80_of_le (hf : s.fill.toNat ≤ 63) :
    execPad80 s = .next (((s.writeBlk s.fill.toNat 0x80).setFill (s.fill + 1)).setSeq .padz 0) :=
  appendByte_room hf

theorem execPadz_of_full (h64 : s.fill = 64) : execPadz s = .next (s.callBlock .padz) :=
  if_pos h64

theorem execPadz_of_eq_56 (h56 : s.fill = 56) : execPadz s = .next (s.setSeq .padlen 0) := by
  have h64 : s.fill ≠ 64 := by rw [h56]; decide
  rw [execPadz, if_neg h64, if_pos h56]

theorem execPadz_of_le (hf : s.fill.toNat ≤ 63) (h56 : s.fill ≠ 56) :
    execPadz s = .next ((s.writeBlk s.fill.toNat 0x00).setFill (s.fill + 1)) := by
  have h64 : s.fill ≠ 64 := fun h => absurd (h ▸ hf) (by decide)
  rw [execPadz, if_neg h64, if_neg h56, appendByte_room hf]

/-! ### PADLEN -/

/-- A byte of `LEN` as arithmetic: what lies above the byte is cut off at 8 bits. -/
theorem lenByte_eq_ofNat (len : BitVec 64) (t : Nat) :
    lenByte len t = BitVec.ofNat 8 (len.toNat / 2 ^ (56 - 8 * t)) := by
  apply BitVec.eq_of_toNat_eq
  rw [toNat_lenByte, BitVec.toNat_ofNat]

/-- The row of PADLEN (30_encoding.md R79) is the phase code 4 and an index of three bits. -/
theorem decodeSeq_padlen (n : BitVec 3) : decodeSeq ((0b0100000 : BitVec 7) ++ n) = .ok (.padlen n) := by
  revert n
  decide

theorem execPadlen_of_lt {n : BitVec 3} (hf : s.fill.toNat ≤ 63) (hn : n.toNat < 7) :
    execPadlen n s = .next (((s.writeBlk (56 + n.toNat) (lenByte s.len n.toNat)).setFill
      (s.fill + 1)).setSeq .padlen (BitVec.ofNat 6 (n.toNat + 1))) := by
  have hne : n ≠ 7 := by rintro rfl; exact absurd hn (by decide)
  have hnext : n.setWidth 6 + 1 = BitVec.ofNat 6 (n.toNat + 1) := by bv_omega
  rw [execPadlen, appendByte_room hf, if_neg hne, hnext]

theorem execPadlen_last (hf : s.fill.toNat ≤ 63) :
    execPadlen 7 s = .next (((s.writeBlk 63 (lenByte s.len 7)).setFill (s.fill + 1)).callBlock .render) :=
  appendByte_room hf

/-! ### The obligations -/

/-- Settles O19: with room, PAD80 appends its byte and goes on to PADZ. -/
theorem pad80AppendsTheFlagByte : Obligations.Pad80AppendsTheFlagByte :=
  ⟨decodeSeq_word ⟨.pad80, 0⟩, fun _ => execPad80_of_le⟩

/-- Settles O20: the three cases of PADZ, of which `FILL` = 64 is tested first and 56 next. -/
theorem padzAppendsAZeroOrBranches : Obligations.PadzAppendsAZeroOrBranches :=
  ⟨decodeSeq_word ⟨.padz, 0⟩, fun _ => ⟨execPadz_of_full, execPadz_of_eq_56, execPadz_of_le⟩⟩

/-- Settles O21: the two outcomes of PADLEN, with the byte of `LEN` as arithmetic. -/
theorem padlenAppendsALengthByte : Obligations.PadlenAppendsALengthByte := by
  refine fun s n hf => ⟨decodeSeq_padlen n, ?next, ?last⟩
  case next =>
    intro hn
    rw [← lenByte_eq_ofNat]
    exact execPadlen_of_lt hf hn
  case last =>
    intro hn
    obtain rfl : n = 7 := BitVec.eq_of_toNat_eq hn
    have hbyte : lenByte s.len 7 = BitVec.ofNat 8 s.len.toNat := by simpa using lenByte_eq_ofNat s.len 7
    rw [← hbyte]
    exact execPadlen_last hf

end Sys2Proof.Machine
end

section
/-! PROOFS. The message schedule expander (42_schedule.md R130, R131): one equation per outcome of LOADW and
EXPAND, the big-endian word as arithmetic. -/

namespace Sys2Proof.Machine

variable {s : State}

/-! ### Words of the block and of the schedule -/

/-- A concatenation as arithmetic. -/
theorem toNat_append_eq_add {m n : Nat} (x : BitVec m) (y : BitVec n) :
    (x ++ y).toNat = x.toNat * 2 ^ n + y.toNat := by
  rw [BitVec.toNat_append, ← Nat.shiftLeft_add_eq_or_of_lt y.isLt, Nat.shiftLeft_eq]

/-- The big-endian word of four bytes as arithmetic (20_memory.md R56). -/
theorem be32_eq_ofNat (b0 b1 b2 b3 : Byte) :
    be32 b0 b1 b2 b3 = BitVec.ofNat 32 (b0.toNat * 2 ^ 24 + b1.toNat * 2 ^ 16 + b2.toNat * 2 ^ 8 + b3.toNat) := by
  apply BitVec.eq_of_toNat_eq
  simp only [be32, toNat_append_eq_add, BitVec.toNat_ofNat]
  omega

/-- The word `k` places before `t`; with `k ≤ t` the index does not wrap. -/
theorem readW_sub {t k : BitVec 6} {x : Word} (hk : k.toNat ≤ t.toNat)
    (h : s.w[t.toNat - k.toNat]? = some x) : s.readW (t - k) = x := by
  rw [← BitVec.toNat_sub_of_le hk] at h
  exact (Vector.getElem?_eq_some_iff.1 h).2

/-! ### The two micro-operations -/

/-- A step to one of two places, as one update of `SEQ`. -/
theorem ite_setSeq (c : Prop) [Decidable c] (s : State) (p p' : Phase) (t t' : BitVec 6) :
    (if c then s.setSeq p t else s.setSeq p' t') = { s with seq := if c then ⟨p, t⟩ else ⟨p', t'⟩ } := by
  split <;> rfl

/-- The row of LOADW (30_encoding.md R79) is the phase code 5 and an index of four bits. -/
theorem decodeSeq_loadw (n : BitVec 4) : decodeSeq ((0b010100 : BitVec 6) ++ n) = .ok (.loadw n) := by
  revert n
  decide

theorem execLoadw_of_full {n : BitVec 4} (hf : n.toNat = 0 → s.fill = 64) :
    execLoadw n s = .next { s.writeW (n.setWidth 6) (s.readBlkWord (4 * n.toNat)) with
      seq := if n.toNat = 15 then ⟨.expand, 16⟩ else ⟨.loadw, BitVec.ofNat 6 (n.toNat + 1)⟩ } := by
  have hok : ¬(n = 0 ∧ s.fill ≠ 64) := fun ⟨h0, hne⟩ => hne (hf (by rw [h0]; rfl))
  have hlast : n = 15 ↔ n.toNat = 15 := BitVec.toNat_inj.symm
  have hnext : n.setWidth 6 + 1 = BitVec.ofNat 6 (n.toNat + 1) := by bv_omega
  simp only [execLoadw, if_neg hok, ite_setSeq, hlast, hnext]

theorem execLoadw_blockSize {n : BitVec 4} (h0 : n.toNat = 0) (hf : s.fill ≠ 64) :
    execLoadw n s = .next (s.raise .blockSize) :=
  if_pos ⟨BitVec.eq_of_toNat_eq h0, hf⟩

theorem execExpand_of_ge {n : BitVec 6} (h16 : 16 ≤ n.toNat) :
    execExpand n s = .next { s.writeW n
        (scheduleFn (s.readW (n - 16)) (s.readW (n - 15)) (s.readW (n - 7)) (s.readW (n - 2))) with
      seq := if n.toNat = 63 then ⟨.initwr, 0⟩ else ⟨.expand, BitVec.ofNat 6 (n.toNat + 1)⟩ } := by
  have hok : ¬n.toNat < 16 := Nat.not_lt.2 h16
  have hlast : n = 63 ↔ n.toNat = 63 := BitVec.toNat_inj.symm
  have hnext : n + 1 = BitVec.ofNat 6 (n.toNat + 1) := by bv_omega
  simp only [execExpand, if_neg hok, ite_setSeq, hlast, hnext]

/-! ### The obligations -/

/-- Settles O22: LOADW with a full block, and its fault; the word is the one `be32_eq_ofNat` computes. -/
theorem loadwLoadsAScheduleWord : Obligations.LoadwLoadsAScheduleWord := by
  refine fun s n => ⟨decodeSeq_loadw n, ?load, execLoadw_blockSize⟩
  case load =>
    rintro _ _ _ _ hf rfl rfl rfl rfl
    rw [← be32_eq_ofNat]
    exact execLoadw_of_full hf

/-- Settles O23: EXPAND from 16 on, where none of the four indexes it reads wraps. -/
theorem expandDerivesAScheduleWord : Obligations.ExpandDerivesAScheduleWord := by
  refine fun s n w16 w15 w7 w2 h16 hw16 hw15 hw7 hw2 => ⟨decodeSeq_word ⟨.expand, n⟩, ?derive⟩
  case derive =>
    have hr16 : s.readW (n - 16) = w16 := readW_sub h16 hw16
    have hr15 : s.readW (n - 15) = w15 := readW_sub (Nat.le_trans (by decide) h16) hw15
    have hr7 : s.readW (n - 7) = w7 := readW_sub (Nat.le_trans (by decide) h16) hw7
    have hr2 : s.readW (n - 2) = w2 := readW_sub (Nat.le_trans (by decide) h16) hw2
    subst hr16 hr15 hr7 hr2
    exact execExpand_of_ge h16

end Sys2Proof.Machine
end

section
/-! PROOFS. The compression pipeline (43_compression.md R140 to R142): the round and the feed-forward on registers
given word by word, and where each of the three micro-operations goes next. -/

namespace Sys2Proof.Machine

variable {s : State}

/-! ### The words of a round and of the feed-forward -/

theorem readW_of_getElem? {t : BitVec 6} {x : Word} (h : s.w[t.toNat]? = some x) : s.readW t = x :=
  (Vector.getElem?_eq_some_iff.1 h).2

/-- The round on registers given one by one, `T1` and `T2` written out (R141). -/
theorem roundFn_mk (a b c d e f g h k x : Word) :
    let t1 := h + (rotr e 6 ^^^ rotr e 11 ^^^ rotr e 25) + ((e &&& f) ^^^ (~~~e &&& g)) + k + x
    let t2 := (rotr a 2 ^^^ rotr a 13 ^^^ rotr a 22) + ((a &&& b) ^^^ (a &&& c) ^^^ (b &&& c))
    roundFn ⟨a, b, c, d, e, f, g, h⟩ k x = ⟨t1 + t2, a, b, c, d + t1, e, f, g⟩ :=
  rfl

theorem Words8.add_mk (a b c d e f g h a' b' c' d' e' f' g' h' : Word) :
    Words8.add ⟨a, b, c, d, e, f, g, h⟩ ⟨a', b', c', d', e', f', g', h'⟩ =
      ⟨a + a', b + b', c + c', d + d', e + e', f + f', g + g', h + h'⟩ :=
  rfl

/-! ### ROUND -/

/-- ROUND as one update: the registers of `roundFn`, and the next round or, after the last one, FEEDFWD. -/
theorem execRound_eq (n : BitVec 6) (s : State) :
    execRound n s = .next { s.setWr (roundFn s.wr (kRead n) (s.readW n)) with
      seq := if n.toNat = 63 then ⟨.feedfwd, 0⟩ else ⟨.round, BitVec.ofNat 6 (n.toNat + 1)⟩ } := by
  have hlast : n = 63 ↔ n.toNat = 63 := BitVec.toNat_inj.symm
  have hnext : n + 1 = BitVec.ofNat 6 (n.toNat + 1) := by bv_omega
  simp only [execRound, ite_setSeq, hlast, hnext]

/-! ### The obligations -/

/-- Settles O24: INITWR has one outcome, whatever the state. -/
theorem initwrLoadsTheWorkingRegisters : Obligations.InitwrLoadsTheWorkingRegisters :=
  ⟨decodeSeq_word ⟨.initwr, 0⟩, fun _ => rfl⟩

/-- Settles O25: the registers are those of `roundFn_mk`, the next place is that of `execRound_eq`. -/
theorem roundComputesOneRound : Obligations.RoundComputesOneRound := by
  rintro s n a b c d e f g h _ x hwr rfl hx _ _ _ _ _ _ rfl rfl rfl rfl rfl rfl
  refine ⟨decodeSeq_word ⟨.round, n⟩, ?round⟩
  case round =>
    have hexec := execRound_eq n s
    rw [hwr, readW_of_getElem? hx, roundFn_mk] at hexec
    exact hexec

/-- Settles O26: the sum is that of `Words8.add_mk`, and the next phase is `Ret.target`, case by case. -/
theorem feedfwdAddsAndReturns : Obligations.FeedfwdAddsAndReturns := by
  refine ⟨decodeSeq_word ⟨.feedfwd, 0⟩, ?feedforward⟩
  case feedforward =>
    intro s a b c d e f g h a' b' c' d' e' f' g' h' hhs hwr
    rw [← Words8.add_mk, ← hhs, ← hwr]
    rfl

end Sys2Proof.Machine
end

section
/-! PROOFS. Command words (30_encoding.md R75 to R77): what a decoded word can be, and the words whose
reserved bits are not zero. -/

namespace Sys2Proof

/-- What a command word can stand for; only the opcode of RDSTAT stands for RDSTAT. -/
theorem decodeCommand_eq_ok {w : BitVec 12} {i : Instr} (h : decodeCommand w = .ok i) :
    i = .init ∨ (∃ d, i = .push d) ∨ i = .final ∨ (∃ n, i = .rdhex n) ∨
    (cmdOp w = 5 ∧ ∃ z, i = .rdstat z) := by
  unfold decodeCommand at h
  split_ifs at h with _ _ _ _ _ _ _ h5 <;> cases h
  case pos => exact .inl rfl
  case pos => exact .inr (.inl ⟨_, rfl⟩)
  case pos => exact .inr (.inr (.inl rfl))
  case pos => exact .inr (.inr (.inr (.inl ⟨_, rfl⟩)))
  case pos => exact .inr (.inr (.inr (.inr ⟨h5, _, rfl⟩)))

theorem decodeCommand_init_arg {arg : Byte} (h : arg ≠ 0) :
    decodeCommand (cmdWord 1 arg) = .error .reservedArgument := by
  simpa [decodeCommand] using h

theorem decodeCommand_rdhex (i : BitVec 6) : decodeCommand ((0b010000 : BitVec 6) ++ i) = .ok (.rdhex i) := by
  revert i
  decide

theorem decodeCommand_rdhex_arg {r : BitVec 2} (i : BitVec 6) (h : r ≠ 0) :
    decodeCommand (cmdWord 4 (r ++ i)) = .error .reservedArgument := by
  simpa [decodeCommand, extract_append_high r i] using h

/-- The sequencer selects no command (30_encoding.md R79). -/
theorem isCommand_of_decodePhase {p : Phase} {t : BitVec 6} {i : Instr} (h : decodePhase p t = .ok i) :
    i.isCommand = false := by
  cases p with
  | expand | round | render | error => cases h; rfl
  | idle | absorb | pad80 | padz | padlen | loadw | initwr | feedfwd | done =>
    simp only [decodePhase] at h
    split at h <;> cases h
    rfl

end Sys2Proof
end

section
/-! PROOFS. The commands (44_top_level.md R152 to R157): one equation per outcome, then the statements about
INIT, RDHEX and RDSTAT. -/

namespace Sys2Proof

/-- IDLE, ABSORB and DONE, in which a command other than RDSTAT is executed, are the wait phases but ERROR. -/
theorem Phase.wait_of_mem {p : Phase} (h : p ∈ [Phase.idle, Phase.absorb, Phase.done]) :
    p ≠ .error ∧ p.isWait = true := by
  revert h
  cases p <;> decide

end Sys2Proof

namespace Sys2Proof.Machine

variable {s : State}

/-! ### Acceptance and the checks -/

theorem whenAccepted_of_mem {o : Host.Outcome State Fault Refusal}
    (hp : s.seq.phase ∈ [Phase.idle, Phase.absorb, Phase.done]) : whenAccepted s o = o :=
  whenAccepted_wait (Phase.wait_of_mem hp).1 (Phase.wait_of_mem hp).2

theorem legalOnlyIn_of_eq {p : Phase} {o : Host.Outcome State Fault Refusal} (hp : s.seq.phase = p) :
    legalOnlyIn p s o = o :=
  if_pos hp

theorem legalOnlyIn_of_ne {p : Phase} {o : Host.Outcome State Fault Refusal} (hp : s.seq.phase ≠ p) :
    legalOnlyIn p s o = .next (s.faultedBy .protocol) :=
  if_neg hp

theorem illegalCommand_of_mem (hp : s.seq.phase ∈ [Phase.idle, Phase.absorb, Phase.done]) :
    illegalCommand s = .next (s.faultedBy .illegalCmd) :=
  whenAccepted_of_mem hp

/-- In a busy phase only RDSTAT is ready (30_encoding.md R73). -/
theorem cmdReady_of_isBusy {op : BitVec 4} (hb : s.seq.phase.isBusy = true) (hop : op ≠ 5) (arg : Byte) :
    s.cmdReady (cmdWord op arg) = false := by
  have hw : s.seq.phase.isWait = false := by simpa [Phase.isBusy] using hb
  simpa [State.cmdReady, hw] using hop

/-! ### An accepted word -/

theorem runCommandWord_of_ok {w : BitVec 12} {i : Instr} (h : decodeCommand w = .ok i) (s : State) :
    runCommandWord w s = exec i s := by
  rw [runCommandWord, h]

theorem runCommandWord_of_error {w : BitVec 12} {r : Reject} (h : decodeCommand w = .error r) (s : State) :
    runCommandWord w s = illegalCommand s := by
  rw [runCommandWord, h]

/-- In ERROR a word other than RDSTAT, legal or illegal, only answers `0x00` (R152 line 2, R163). -/
theorem runCommandWord_inError {w : BitVec 12} (hp : s.seq.phase = .error) (h5 : cmdOp w ≠ 5) :
    runCommandWord w s = .next (s.respond 0) := by
  cases hd : decodeCommand w with
  | error r => exact (runCommandWord_of_error hd s).trans (whenAccepted_error hp)
  | ok i =>
    rw [runCommandWord_of_ok hd]
    rcases decodeCommand_eq_ok hd with rfl | ⟨d, rfl⟩ | rfl | ⟨n, rfl⟩ | ⟨h, -⟩
    · exact whenAccepted_error hp
    · exact whenAccepted_error hp
    · exact whenAccepted_error hp
    · exact whenAccepted_error hp
    · exact absurd h h5

/-! ### The outcomes of each command -/

theorem execInit_of_mem (hp : s.seq.phase ∈ [Phase.idle, Phase.absorb, Phase.done]) :
    execInit s =
      .next ((((((s.setHs hinit).setLen 0).setFill 0).setRet .absorb).setSeq .absorb 0).respond 0) :=
  whenAccepted_of_mem hp

theorem execPush_protocol (d : Byte) (hp : s.seq.phase ∈ [Phase.idle, Phase.absorb, Phase.done])
    (hne : s.seq.phase ≠ .absorb) : execPush d s = .next (s.faultedBy .protocol) :=
  (whenAccepted_of_mem hp).trans (legalOnlyIn_of_ne hne)

theorem execPush_lenOverflow (d : Byte) (hp : s.seq.phase = .absorb) (hl : s.len.toNat = 2 ^ 64 - 8) :
    execPush d s = .next (s.faultedBy .lenOverflow) := by
  have hmem : s.seq.phase ∈ [Phase.idle, Phase.absorb, Phase.done] := by simp [hp]
  have hlim : s.lenAtLimit = true := decide_eq_true (by rw [hl]; decide)
  exact (whenAccepted_of_mem hmem).trans ((legalOnlyIn_of_eq hp).trans (if_pos hlim))

theorem execFinal_protocol (hp : s.seq.phase ∈ [Phase.idle, Phase.absorb, Phase.done])
    (hne : s.seq.phase ≠ .absorb) : execFinal s = .next (s.faultedBy .protocol) :=
  (whenAccepted_of_mem hp).trans (legalOnlyIn_of_ne hne)

theorem execRdhex_protocol (i : BitVec 6) (hp : s.seq.phase ∈ [Phase.idle, Phase.absorb, Phase.done])
    (hne : s.seq.phase ≠ .done) : execRdhex i s = .next (s.faultedBy .protocol) :=
  (whenAccepted_of_mem hp).trans (legalOnlyIn_of_ne hne)

theorem execRdhex_done (i : BitVec 6) (hp : s.seq.phase = .done) :
    execRdhex i s = .next (s.respond (s.readHex i.toNat)) := by
  have hmem : s.seq.phase ∈ [Phase.idle, Phase.absorb, Phase.done] := by simp [hp]
  exact (whenAccepted_of_mem hmem).trans (legalOnlyIn_of_eq hp)

/-! ### The obligations -/

/-- Settles O10: the three executing phases, the illegal argument, ERROR, and the hold. -/
theorem initOpensADigest : Obligations.InitOpensADigest := by
  refine ⟨by decide, fun s => ⟨execInit_of_mem, ?argument, whenAccepted_error, ?held⟩⟩
  case argument =>
    intro arg harg hp
    rw [runCommandWord_of_error (decodeCommand_init_arg harg), illegalCommand_of_mem hp]
  case held => exact fun hb => cmdReady_of_isBusy hb (by decide)

/-- Settles O13: the read in DONE, the `PROTOCOL` fault before it, and the illegal argument. -/
theorem rdhexReadsACharacter : Obligations.RdhexReadsACharacter := by
  refine fun s i => ⟨decodeCommand_rdhex i, execRdhex_done i, fun b => State.readHex_of_read, ?protocol,
    ?argument⟩
  case protocol =>
    intro hp
    have hsub : [Phase.idle, Phase.absorb] ⊆ [Phase.idle, Phase.absorb, Phase.done] := by decide
    have hne : s.seq.phase ≠ .done := fun h => absurd (h ▸ hp) (by decide)
    exact execRdhex_protocol i (hsub hp) hne
  case argument =>
    intro r hr hp
    rw [runCommandWord_of_error (decodeCommand_rdhex_arg i hr), illegalCommand_of_mem hp]

/-- Settles O14: RDSTAT is ready and executed in every phase. -/
theorem rdstatReadsTheStatus : Obligations.RdstatReadsTheStatus := by
  refine fun s z => ⟨by simp [State.cmdReady], ?decodes, rfl⟩
  case decodes => simpa using decodeCommand_rdstat (cmdOp_cmdWord 5 z)

end Sys2Proof.Machine
end

section
/-! PROOFS. The steps that accept a command (44_top_level.md R152) and the steps in ERROR (R163). -/

namespace Sys2Proof.Machine

variable {s t : State} {w : BitVec 12}

/-! ### The response of a status read -/

/-- A micro-operation or wait state leaves the response port alone. -/
theorem exec_response {i : Instr} (hi : i.isCommand = false) (h : exec i s = .next t) :
    t.rspValid = s.rspValid ∧ t.rsp = s.rsp := by
  cases i with
  | init | push | final | rdhex | rdstat => cases hi
  | idle | absorb | done | error | initwr | feedfwd => cases h; exact ⟨rfl, rfl⟩
  | pad80 => obtain ⟨-, rfl⟩ := execPad80_eq_next h; exact ⟨rfl, rfl⟩
  | padz => rcases execPadz_eq_next h with ⟨-, rfl⟩ | ⟨-, rfl⟩ | ⟨-, -, -, rfl⟩ <;> exact ⟨rfl, rfl⟩
  | padlen n => obtain ⟨-, ⟨-, rfl⟩ | ⟨-, rfl⟩⟩ := execPadlen_eq_next h <;> exact ⟨rfl, rfl⟩
  | loadw n =>
    rcases execLoadw_eq_next h with ⟨-, -, rfl⟩ | ⟨-, v, -, ⟨-, rfl⟩ | ⟨-, rfl⟩⟩ <;> exact ⟨rfl, rfl⟩
  | expand n => obtain ⟨-, v, -, ⟨-, rfl⟩ | ⟨-, rfl⟩⟩ := execExpand_eq_next h <;> exact ⟨rfl, rfl⟩
  | round n => rcases execRound_eq_next h with ⟨-, rfl⟩ | ⟨-, rfl⟩ <;> exact ⟨rfl, rfl⟩
  | render n => rcases execRender_eq_next h with ⟨-, rfl⟩ | ⟨-, rfl⟩ <;> exact ⟨rfl, rfl⟩

theorem sequencerStep_response (h : sequencerStep s = .next t) :
    t.rspValid = s.rspValid ∧ t.rsp = s.rsp := by
  obtain ⟨i, hi, hexec⟩ := sequencerStep_eq_next h
  exact exec_response (isCommand_of_decodePhase hi) hexec

/-- A status read in a wait phase changes nothing but the response. -/
theorem step_statusRead_wait (hr : s.rst = false) (hw : s.acceptedWord = some w) (h5 : cmdOp w = 5)
    (hp : s.seq.phase.isWait = true) : step s = .next (s.beginStep.respond s.status) :=
  (step_command hr hw hp).trans (runCommandWord_of_ok (decodeCommand_rdstat h5) _)

/-- A status read answers `STATUS` in every phase; beside a micro-operation, that of the state before it
(30_encoding.md R74). -/
theorem step_statusRead_response (hr : s.rst = false) (hw : s.acceptedWord = some w) (h5 : cmdOp w = 5)
    (h : step s = .next t) : t.rspValid = true ∧ t.rsp = s.status := by
  cases hp : s.seq.phase.isWait with
  | true =>
    rw [step_statusRead_wait hr hw h5 hp] at h
    cases h
    exact ⟨rfl, rfl⟩
  | false =>
    rw [step_busy hr hw hp] at h
    exact sequencerStep_response h

/-! ### The steps in ERROR -/

section
variable (hp : s.seq.phase = .error) (hr : s.rst = false)
include hp hr

theorem step_inError_quiet (hw : s.acceptedWord = none) : step s = .next s.beginStep :=
  (step_sequencer hr hw).trans (sequencerStep_eq (i := .error s.seq.t) (by simp [hp, decodePhase]))

theorem step_inError_command (hw : s.acceptedWord = some w) (h5 : cmdOp w ≠ 5) :
    step s = .next (s.beginStep.respond 0) :=
  (step_command hr hw (by simp [hp, Phase.isWait])).trans (runCommandWord_inError hp h5)

theorem step_inError_statusRead (hw : s.acceptedWord = some w) (h5 : cmdOp w = 5) :
    step s = .next (s.beginStep.respond (0x04 + 16 * s.cause.code.setWidth 8)) := by
  rw [step_statusRead_wait hr hw h5 (by simp [hp, Phase.isWait]), status_eq, hp, Phase.flagByte]

/-- Without reset `SEQ` stays as it is. -/
theorem step_inError_seq (h : step s = .next t) : t.seq = s.seq := by
  cases hw : s.acceptedWord with
  | none => rw [step_inError_quiet hp hr hw] at h; cases h; rfl
  | some w =>
    by_cases h5 : cmdOp w = 5
    · rw [step_inError_statusRead hp hr hw h5] at h; cases h; rfl
    · rw [step_inError_command hp hr hw h5] at h; cases h; rfl

end

/-! ### The obligations -/

/-- Settles O15: RDSTAT and ERROR first; in the other wait phases the step runs the decoded command, whose
faults are those of its own equations. -/
theorem checksAreMadeInTheFixedOrder : Obligations.ChecksAreMadeInTheFixedOrder := by
  intro s w hr hw
  refine ⟨fun h5 t => step_statusRead_response hr hw h5, step_statusRead_wait hr hw,
    fun h5 hp => step_inError_command hp hr hw h5, fun hp => ?executed⟩
  have hstep : step s = runCommandWord w s.beginStep := step_command hr hw (Phase.wait_of_mem hp).2
  have hexec {i : Instr} (hd : decodeCommand w = .ok i) : step s = exec i s.beginStep :=
    hstep.trans (runCommandWord_of_ok hd _)
  refine ⟨?illegal, ?push, ?final, ?rdhex, ?overflow, fun i hd _ => hexec hd⟩
  case illegal =>
    rintro ⟨r, hd⟩
    exact hstep.trans ((runCommandWord_of_error hd _).trans (illegalCommand_of_mem hp))
  case push => exact fun d hd hne => (hexec hd).trans (execPush_protocol d hp hne)
  case final => exact fun hd hne => (hexec hd).trans (execFinal_protocol hp hne)
  case rdhex => exact fun i hd hne => (hexec hd).trans (execRdhex_protocol i hp hne)
  case overflow => exact fun d hd ha hl => (hexec hd).trans (execPush_lenOverflow d ha hl)

/-- Settles O18: the three steps without reset, none of which changes `SEQ`. -/
theorem errorIsLeftOnlyByReset : Obligations.ErrorIsLeftOnlyByReset := by
  intro s hp
  refine ⟨?ready, step_inError_quiet hp, fun w => step_inError_statusRead hp,
    fun w => step_inError_command hp, ?left⟩
  case ready => simp [State.cmdReady, hp, Phase.isWait]
  case left =>
    intro t h hne
    cases hr : s.rst with
    | false => exact absurd (by rw [step_inError_seq hp hr h, hp]) hne
    | true =>
      rw [step_reset hr] at h
      cases h
      exact ⟨rfl, rfl, rfl⟩

end Sys2Proof.Machine
end

section
/-! PROOFS. Faults (60_exceptions.md): which command words are illegal (R181), which steps raise a fault and what
fault entry leaves (R186). -/

namespace Sys2Proof

/-! ### Illegal command words -/

theorem toNat_cmdOp (w : BitVec 12) : (cmdOp w).toNat = w.toNat / 256 := by
  rw [cmdOp, BitVec.extractLsb'_toNat, Nat.shiftRight_eq_div_pow]
  omega

theorem toNat_cmdArg (w : BitVec 12) : (cmdArg w).toNat = w.toNat % 256 := by
  rw [cmdArg, BitVec.extractLsb'_toNat, Nat.shiftRight_zero]

/-- `arg[7:6]`, which RDHEX reserves. -/
theorem toNat_cmdArg_high (w : BitVec 12) : ((cmdArg w).extractLsb' 6 2).toNat = w.toNat / 64 % 4 := by
  rw [BitVec.extractLsb'_toNat, toNat_cmdArg, Nat.shiftRight_eq_div_pow]
  omega

/-- The words that stand for no command, as arithmetic on the word (30_encoding.md R77). -/
theorem exists_decodeCommand_eq_error_iff (w : BitVec 12) :
    (∃ r, decodeCommand w = .error r) ↔
      (w.toNat / 256 = 0 ∨ 6 ≤ w.toNat / 256 ∨
       ((w.toNat / 256 = 1 ∨ w.toNat / 256 = 3) ∧ w.toNat % 256 ≠ 0) ∨
       (w.toNat / 256 = 4 ∧ w.toNat / 64 % 4 ≠ 0)) := by
  have hop (n : BitVec 4) : cmdOp w = n ↔ w.toNat / 256 = n.toNat := by
    rw [← BitVec.toNat_inj, toNat_cmdOp]
  have harg : cmdArg w = 0#8 ↔ w.toNat % 256 = 0 := by
    rw [← BitVec.toNat_inj, toNat_cmdArg]; rfl
  have hhigh : (cmdArg w).extractLsb' 6 2 = 0#2 ↔ w.toNat / 64 % 4 = 0 := by
    rw [← BitVec.toNat_inj, toNat_cmdArg_high]; rfl
  simp only [decodeCommand, hop, harg, hhigh, BitVec.ofNat_eq_ofNat, BitVec.toNat_ofNat]
  split_ifs <;> simp <;> omega

/-! ### Phases -/

theorem Phase.mem_of_wait {p : Phase} (he : p ≠ .error) (hw : p.isWait = true) :
    p ∈ [Phase.idle, Phase.absorb, Phase.done] := by
  revert he hw
  cases p <;> decide

theorem phase_of_decodePhase_loadw {p : Phase} {t : BitVec 6} {n : BitVec 4}
    (h : decodePhase p t = .ok (.loadw n)) : p = .loadw := by
  cases p with
  | loadw => rfl
  | expand | round | render | error => cases h
  | idle | absorb | pad80 | padz | padlen | initwr | feedfwd | done =>
    simp only [decodePhase] at h
    split at h <;> cases h

end Sys2Proof

namespace Sys2Proof.Machine

variable {s t : State} {w : BitVec 12}

/-! ### The outcomes that are no fault entry -/

/-- From `s` to `t` `CAUSE` is kept and ERROR is not entered. -/
def NoFaultEntry (s t : State) : Prop :=
  t.cause = s.cause ∧ (t.seq.phase = .error → s.seq.phase = .error)

theorem NoFaultEntry.of_phase_ne (hc : t.cause = s.cause) (hp : t.seq.phase ≠ .error) : NoFaultEntry s t :=
  ⟨hc, fun h => absurd h hp⟩

theorem NoFaultEntry.of_seq_eq (hc : t.cause = s.cause) (hq : t.seq = s.seq) : NoFaultEntry s t :=
  ⟨hc, fun h => hq ▸ h⟩

theorem Ret.target_ne_error (r : Ret) : r.target ≠ .error := by
  cases r <;> decide

theorem noFaultEntry_pushed (s : State) (d : Byte) : NoFaultEntry s (pushed d s) := by
  unfold pushed
  split
  · exact .of_phase_ne rfl nofun
  · exact .of_seq_eq rfl rfl

/-! ### Who raises a fault -/

/-- An accepted word faults only in the wait phases other than ERROR, and with `ILLEGAL_CMD` only if it is
illegal (R181). -/
theorem runCommandWord_eq_next (h : runCommandWord w s = .next t) :
    NoFaultEntry s t ∨
    (s.seq.phase ∈ [Phase.idle, Phase.absorb, Phase.done] ∧
      ∃ c, c ≠ .noFault ∧ (c = .illegalCmd → ∃ r, decodeCommand w = .error r) ∧ t = s.faultedBy c) := by
  cases hd : decodeCommand w with
  | error r =>
    rw [runCommandWord_of_error hd] at h
    rcases whenAccepted_eq_next h with ⟨-, rfl⟩ | ⟨he, hw, h⟩ | ⟨-, rfl⟩
    · exact .inl (.of_seq_eq rfl rfl)
    · cases h
      exact .inr ⟨Phase.mem_of_wait he hw, .illegalCmd, nofun, fun _ => ⟨r, rfl⟩, rfl⟩
    · exact .inl (.of_seq_eq rfl rfl)
  | ok i =>
    rw [runCommandWord_of_ok hd] at h
    rcases decodeCommand_eq_ok hd with rfl | ⟨d, rfl⟩ | rfl | ⟨n, rfl⟩ | ⟨-, z, rfl⟩
    · rcases execInit_eq_next h with ⟨-, rfl⟩ | ⟨-, rfl⟩ | ⟨-, -, rfl⟩
      · exact .inl (.of_seq_eq rfl rfl)
      · exact .inl (.of_seq_eq rfl rfl)
      · exact .inl (.of_phase_ne rfl nofun)
    · rcases execPush_eq_next h with ⟨-, rfl⟩ | ⟨-, rfl⟩ | ⟨he, hw, -, rfl⟩ | ⟨hp, -, rfl⟩ | ⟨-, -, -, rfl⟩
      · exact .inl (.of_seq_eq rfl rfl)
      · exact .inl (.of_seq_eq rfl rfl)
      · exact .inr ⟨Phase.mem_of_wait he hw, .protocol, nofun, nofun, rfl⟩
      · exact .inr ⟨by simp [hp], .lenOverflow, nofun, nofun, rfl⟩
      · exact .inl (noFaultEntry_pushed s d)
    · rcases execFinal_eq_next h with ⟨-, rfl⟩ | ⟨-, rfl⟩ | ⟨he, hw, -, rfl⟩ | ⟨-, rfl⟩
      · exact .inl (.of_seq_eq rfl rfl)
      · exact .inl (.of_seq_eq rfl rfl)
      · exact .inr ⟨Phase.mem_of_wait he hw, .protocol, nofun, nofun, rfl⟩
      · exact .inl (.of_phase_ne rfl nofun)
    · rcases execRdhex_eq_next h with ⟨-, rfl⟩ | ⟨-, rfl⟩ | ⟨he, hw, -, rfl⟩ | ⟨-, rfl⟩
      · exact .inl (.of_seq_eq rfl rfl)
      · exact .inl (.of_seq_eq rfl rfl)
      · exact .inr ⟨Phase.mem_of_wait he hw, .protocol, nofun, nofun, rfl⟩
      · exact .inl (.of_seq_eq rfl rfl)
    · cases h
      exact .inl (.of_seq_eq rfl rfl)

/-- Of the micro-operations and wait states only LOADW faults, with `BLOCK_SIZE` (R184). -/
theorem exec_noFaultEntry_or_loadw {i : Instr} (hi : i.isCommand = false) (h : exec i s = .next t) :
    NoFaultEntry s t ∨ (∃ n, i = .loadw n) ∧ t = s.raise .blockSize := by
  cases i with
  | init | push | final | rdhex | rdstat => cases hi
  | idle | absorb | done | error => cases h; exact .inl (.of_seq_eq rfl rfl)
  | initwr => cases h; exact .inl (.of_phase_ne rfl nofun)
  | feedfwd => cases h; exact .inl (.of_phase_ne rfl (Ret.target_ne_error _))
  | pad80 => obtain ⟨-, rfl⟩ := execPad80_eq_next h; exact .inl (.of_phase_ne rfl nofun)
  | padz =>
    rcases execPadz_eq_next h with ⟨-, rfl⟩ | ⟨-, rfl⟩ | ⟨-, -, -, rfl⟩
    · exact .inl (.of_phase_ne rfl nofun)
    · exact .inl (.of_phase_ne rfl nofun)
    · exact .inl (.of_seq_eq rfl rfl)
  | padlen n =>
    obtain ⟨-, ⟨-, rfl⟩ | ⟨-, rfl⟩⟩ := execPadlen_eq_next h <;> exact .inl (.of_phase_ne rfl nofun)
  | loadw n =>
    rcases execLoadw_eq_next h with ⟨-, -, rfl⟩ | ⟨-, v, -, ⟨-, rfl⟩ | ⟨-, rfl⟩⟩
    · exact .inr ⟨⟨n, rfl⟩, rfl⟩
    · exact .inl (.of_phase_ne rfl nofun)
    · exact .inl (.of_phase_ne rfl nofun)
  | expand n =>
    obtain ⟨-, v, -, ⟨-, rfl⟩ | ⟨-, rfl⟩⟩ := execExpand_eq_next h <;> exact .inl (.of_phase_ne rfl nofun)
  | round n => rcases execRound_eq_next h with ⟨-, rfl⟩ | ⟨-, rfl⟩ <;> exact .inl (.of_phase_ne rfl nofun)
  | render n => rcases execRender_eq_next h with ⟨-, rfl⟩ | ⟨-, rfl⟩ <;> exact .inl (.of_phase_ne rfl nofun)

theorem sequencerStep_noFaultEntry_or_loadw (h : sequencerStep s = .next t) :
    NoFaultEntry s t ∨ s.seq.phase = .loadw ∧ t = s.raise .blockSize := by
  obtain ⟨i, hi, hexec⟩ := sequencerStep_eq_next h
  rcases exec_noFaultEntry_or_loadw (isCommand_of_decodePhase hi) hexec with hno | ⟨⟨n, rfl⟩, rfl⟩
  · exact .inl hno
  · exact .inr ⟨phase_of_decodePhase_loadw hi, rfl⟩

/-- Everything a step can do to `CAUSE` and ERROR: reset, no fault entry, the fault of an accepted command, or
LOADW's fault, beside which a status read may have set the response. -/
theorem step_fault_cases (h : step s = .next t) :
    t = (s.setInput s.nextInput).resetStep ∨ NoFaultEntry s t ∨
    (s.rst = false ∧ s.seq.phase ∈ [Phase.idle, Phase.absorb, Phase.done] ∧
      ∃ w c, s.acceptedWord = some w ∧ c ≠ .noFault ∧
        (c = .illegalCmd → ∃ r, decodeCommand w = .error r) ∧ t = s.beginStep.faultedBy c) ∨
    (s.seq.phase = .loadw ∧
      (t = s.beginStep.raise .blockSize ∨ t = (s.beginStep.respond s.status).raise .blockSize)) := by
  rcases step_cases s with ⟨-, hs⟩ | ⟨-, -, hs⟩ | ⟨w, hr, hw, -, hs⟩ | ⟨w, -, -, -, hs⟩ <;> rw [hs] at h
  · cases h; exact .inl rfl
  · rcases sequencerStep_noFaultEntry_or_loadw h with hno | ⟨hp, ht⟩
    · exact .inr (.inl hno)
    · exact .inr (.inr (.inr ⟨hp, .inl ht⟩))
  · rcases runCommandWord_eq_next h with hno | ⟨hp, c, hc⟩
    · exact .inr (.inl hno)
    · exact .inr (.inr (.inl ⟨hr, hp, w, c, hw, hc⟩))
  · rcases sequencerStep_noFaultEntry_or_loadw h with hno | ⟨hp, ht⟩
    · exact .inr (.inl hno)
    · exact .inr (.inr (.inr ⟨hp, .inr ht⟩))

/-- In a wait phase a presented word is accepted (30_encoding.md R73). -/
theorem acceptedWord_of_isWait (hp : s.seq.phase.isWait = true) : s.acceptedWord = s.presented := by
  unfold State.acceptedWord
  cases s.presented <;> simp [State.cmdReady, hp]

/-! ### The obligations -/

/-- Settles O16: of the fault entries of a step only that of an illegal command writes `ILLEGAL_CMD`, and by
`checksAreMadeInTheFixedOrder` such a command is always a fault. -/
theorem illegalWordsRaiseIllegalCmd : Obligations.IllegalWordsRaiseIllegalCmd := by
  intro s t h hne
  simp only [← exists_decodeCommand_eq_error_iff]
  constructor
  · intro hc
    rcases step_fault_cases h with rfl | ⟨hkept, -⟩ | ⟨hr, hp, w, c, hw, -, hill, rfl⟩ | ⟨-, rfl | rfl⟩
    · cases hc
    · exact absurd (hkept ▸ hc) hne
    · exact ⟨hr, hp, w, acceptedWord_of_isWait (Phase.wait_of_mem hp).2 ▸ hw, hill hc⟩
    · cases hc
    · cases hc
  · rintro ⟨hr, hp, w, hw, hill⟩
    have haccepted : s.acceptedWord = some w := (acceptedWord_of_isWait (Phase.wait_of_mem hp).2).trans hw
    obtain ⟨-, -, -, hexecuted⟩ := checksAreMadeInTheFixedOrder s w hr haccepted
    rw [(hexecuted hp).1 hill] at h
    cases h
    rfl

/-- Settles O29: the fault of a command in a wait phase answers `0x00`; the other, LOADW's, is raised in a busy
phase. -/
theorem faultEntryKeepsEverythingElse : Obligations.FaultEntryKeepsEverythingElse := by
  intro s t h hs ht
  rcases step_fault_cases h with rfl | ⟨-, hkept⟩ | ⟨-, -, w, c, -, hc, -, rfl⟩ | ⟨hp, hraise⟩
  · cases ht
  · exact absurd (hkept ht) hs
  · exact ⟨rfl, hc, fun _ => ⟨rfl, rfl⟩, rfl, rfl, rfl, rfl⟩
  · have hbusy : ¬s.seq.phase.isWait = true := by rw [hp]; decide
    rcases hraise with rfl | rfl <;>
      exact ⟨rfl, nofun, fun hw => absurd hw hbusy, rfl, rfl, rfl, rfl⟩

end Sys2Proof.Machine
end

section
/-! PROOFS. Reset (70_reset_and_hazards.md R200): the reset step, and that no other step clears `CAUSE`. -/

namespace Sys2Proof.Machine

variable {s t : State}

/-! ### The host queue in the reset step -/

theorem nextInput_of_rst (h : s.rst = true) : s.nextInput = s.input.tail := by
  cases hi : s.input with
  | nil => simp [State.rst, hi] at h
  | cons a l =>
    cases a with
    | reset => simp [State.nextInput, hi]
    | present | offer | quiet => simp [State.rst, hi] at h

/-! ### A cause stays -/

theorem Cause.code_eq_zero_iff (c : Cause) : c.code = 0 ↔ c = .noFault := by
  cases c <;> decide

theorem NoFaultEntry.cause_ne_noFault (h : NoFaultEntry s t) (hc : s.cause ≠ .noFault) :
    t.cause ≠ .noFault := by
  obtain ⟨hkept, -⟩ := h
  rwa [hkept]

/-- The sequencer writes `CAUSE` only with LOADW's `BLOCK_SIZE`. -/
theorem sequencerStep_cause_ne_noFault (h : sequencerStep s = .next t) (hc : s.cause ≠ .noFault) :
    t.cause ≠ .noFault := by
  rcases sequencerStep_noFaultEntry_or_loadw h with hno | ⟨-, rfl⟩
  · exact hno.cause_ne_noFault hc
  · exact nofun

/-- An accepted word writes `CAUSE` only with the cause of its own fault. -/
theorem runCommandWord_cause_ne_noFault {w : BitVec 12} (h : runCommandWord w s = .next t)
    (hc : s.cause ≠ .noFault) : t.cause ≠ .noFault := by
  rcases runCommandWord_eq_next h with hno | ⟨-, c, hcause, -, rfl⟩
  · exact hno.cause_ne_noFault hc
  · exact hcause

theorem step_cause_ne_noFault (hr : s.rst = false) (h : step s = .next t) (hc : s.cause ≠ .noFault) :
    t.cause ≠ .noFault := by
  rcases step_cases s with ⟨hr', -⟩ | ⟨-, -, hs⟩ | ⟨w, -, -, -, hs⟩ | ⟨w, -, -, -, hs⟩
  · exact absurd hr (by simp [hr'])
  · rw [hs] at h; exact sequencerStep_cause_ne_noFault h hc
  · rw [hs] at h; exact runCommandWord_cause_ne_noFault h hc
  · rw [hs] at h; exact sequencerStep_cause_ne_noFault h hc

/-! ### The obligation -/

/-- Settles O33: the reset step writes the fields out; without reset `SEQ` is kept in ERROR, and every write to
`CAUSE` is a fault's. -/
theorem resetStepClearsTheControlState : Obligations.ResetStepClearsTheControlState := by
  refine fun s => ⟨fun hr => ?reset, fun hr t h => ⟨fun hp => ?error, fun hc => ?cause⟩⟩
  case reset => exact ⟨_, step_reset hr, rfl, rfl, rfl, rfl, rfl, rfl, rfl, nextInput_of_rst hr⟩
  case error => rw [step_inError_seq hp hr h, hp]
  case cause =>
    rw [Ne, Cause.code_eq_zero_iff] at hc ⊢
    exact step_cause_ne_noFault hr h hc

end Sys2Proof.Machine
end

section
/-! PROOFS. The two directions of the encoding (30_encoding.md R75, R79), and the opcode table: a row covers a
word by its two fields. -/

namespace Sys2Proof

/-! ### A field and the bits of it that a row leaves free -/

theorem extract_zero_append {m n : Nat} {x : BitVec (m + n)} (h : x.extractLsb' n m = 0#m) :
    (0#m) ++ x.extractLsb' 0 n = x := by
  rw [← h, append_extract]

theorem cmdWord_eq {w : BitVec 12} {op : BitVec 4} {arg : Byte} (hop : cmdOp w = op) (harg : arg = cmdArg w) :
    cmdWord op arg = w := by
  rw [← hop, harg, cmdWord_fields]

/-! ### Encoding what has been decoded -/

theorem encode_of_decodeCommand {w : BitVec 12} {i : Instr} (h : decodeCommand w = .ok i) :
    encode i = .cmd w := by
  unfold decodeCommand at h
  split_ifs at h with h1 harg _ h3 harg _ hhigh <;> cases h <;> refine congrArg RawWord.cmd (cmdWord_eq ‹_› ?_)
  · exact harg.symm
  · rfl
  · exact harg.symm
  · exact extract_zero_append hhigh
  · rfl

/-- The word of what `SEQ` selects is the value of `SEQ`. -/
theorem encode_of_decodePhase {p : Phase} {t : BitVec 6} {i : Instr} (h : decodePhase p t = .ok i) :
    encode i = .seq (seqWord p.code t) := by
  cases p with
  | expand | round | render | error => cases h; rfl
  | idle | absorb | pad80 | padz | initwr | feedfwd | done =>
    simp only [decodePhase] at h
    split at h <;> cases h
    next ht => rw [ht]; rfl
  | padlen | loadw =>
    simp only [decodePhase] at h
    split at h <;> cases h
    next ht => exact congrArg (fun x => RawWord.seq (seqWord _ x)) (extract_zero_append ht)

theorem encode_of_decodeSeq {w : BitVec 10} {i : Instr} (h : decodeSeq w = .ok i) : encode i = .seq w := by
  unfold decodeSeq at h
  split at h
  · next p hp => rw [encode_of_decodePhase h, Phase.code_of_ofCode hp, seqWord_fields]
  · cases h

/-- Settles O3: each word is put together again from the fields the decoder took apart. -/
theorem encodeInvertsDecode : Obligations.EncodeInvertsDecode := by
  intro raw i h
  cases raw with
  | cmd w => exact encode_of_decodeCommand h
  | seq w => exact encode_of_decodeSeq h

/-! ### Decoding what has been encoded -/

theorem decodeCommand_cmdWord_rdhex (i : BitVec 6) :
    decodeCommand (cmdWord 4 ((0 : BitVec 2) ++ i)) = .ok (.rdhex i) := by
  simp [decodeCommand, extract_append_high (0#2) i, extract_append_low (0#2) i]

theorem decodePhase_padlen (t : BitVec 3) : decodePhase .padlen ((0 : BitVec 3) ++ t) = .ok (.padlen t) := by
  simp [decodePhase, extract_append_high (0#3) t, extract_append_low (0#3) t]

theorem decodePhase_loadw (t : BitVec 4) : decodePhase .loadw ((0 : BitVec 2) ++ t) = .ok (.loadw t) := by
  simp [decodePhase, extract_append_high (0#2) t, extract_append_low (0#2) t]

/-- Settles O2: of each of the 18 words, the opcode or phase code selects the row, and the operand is read
back from its field. -/
theorem decodeInvertsEncode : Obligations.DecodeInvertsEncode := by
  intro i
  cases i with
  | init | final => rfl
  | push | rdstat => simp [encode, decode, decodeCommand]
  | rdhex i => exact decodeCommand_cmdWord_rdhex i
  | idle => exact Machine.decodeSeq_word ⟨.idle, 0⟩
  | absorb => exact Machine.decodeSeq_word ⟨.absorb, 0⟩
  | pad80 => exact Machine.decodeSeq_word ⟨.pad80, 0⟩
  | padz => exact Machine.decodeSeq_word ⟨.padz, 0⟩
  | padlen t => exact (Machine.decodeSeq_word ⟨.padlen, _⟩).trans (decodePhase_padlen t)
  | loadw t => exact (Machine.decodeSeq_word ⟨.loadw, _⟩).trans (decodePhase_loadw t)
  | expand t => exact Machine.decodeSeq_word ⟨.expand, t⟩
  | initwr => exact Machine.decodeSeq_word ⟨.initwr, 0⟩
  | round t => exact Machine.decodeSeq_word ⟨.round, t⟩
  | feedfwd => exact Machine.decodeSeq_word ⟨.feedfwd, 0⟩
  | render t => exact Machine.decodeSeq_word ⟨.render, t⟩
  | done => exact Machine.decodeSeq_word ⟨.done, 0⟩
  | error t => exact Machine.decodeSeq_word ⟨.error, t⟩

end Sys2Proof
end

section
/-! PROOFS. The opcode table (spec/opcode_table.json): a row covers a word by its two fields, and the words a row
covers are those of its instructions. -/

namespace Sys2Proof

/-! ### Words and rows field by field -/

theorem cmdWord_inj {op op' : BitVec 4} {arg arg' : Byte} :
    cmdWord op arg = cmdWord op' arg' ↔ op = op' ∧ arg = arg' := by
  refine ⟨fun h => ⟨by simpa using congrArg cmdOp h, by simpa using congrArg cmdArg h⟩, ?_⟩
  rintro ⟨rfl, rfl⟩
  rfl

theorem seqWord_inj {p p' : BitVec 4} {t t' : BitVec 6} :
    seqWord p t = seqWord p' t' ↔ p = p' ∧ t = t' := by
  refine ⟨fun h => ⟨by simpa using congrArg seqPhase h, by simpa using congrArg seqIndex h⟩, ?_⟩
  rintro ⟨rfl, rfl⟩
  rfl

theorem cmdWord_and (op op' : BitVec 4) (arg arg' : Byte) :
    cmdWord op arg &&& cmdWord op' arg' = cmdWord (op &&& op') (arg &&& arg') :=
  BitVec.and_append

theorem seqWord_and (p p' : BitVec 4) (t t' : BitVec 6) :
    seqWord p t &&& seqWord p' t' = seqWord (p &&& p') (t &&& t') :=
  BitVec.and_append

/-- A row of format C whose mask takes the whole opcode. -/
theorem fields_of_covers_cmd {r : TableRow} {op op' : BitVec 4} {arg pat mask : Byte}
    (h : r.covers (.cmd (cmdWord op arg)) = true)
    (hp : r.pattern = (cmdWord op' pat).toNat) (hm : r.mask = (cmdWord 15 mask).toNat) :
    op = op' ∧ arg &&& mask = pat := by
  simp only [TableRow.covers, RawWord.toNat, hp, hm, ← BitVec.toNat_and, BitVec.toNat_inj, Bool.and_eq_true,
    decide_eq_true_eq, cmdWord_and] at h
  have hop : op &&& 15#4 = op := BitVec.and_allOnes
  exact hop ▸ cmdWord_inj.1 h.2

/-- A row of format U whose mask takes the whole phase code. -/
theorem fields_of_covers_seq {r : TableRow} {p p' : BitVec 4} {t pat mask : BitVec 6}
    (h : r.covers (.seq (seqWord p t)) = true)
    (hp : r.pattern = (seqWord p' pat).toNat) (hm : r.mask = (seqWord 15 mask).toNat) :
    p = p' ∧ t &&& mask = pat := by
  simp only [TableRow.covers, RawWord.toNat, hp, hm, ← BitVec.toNat_and, BitVec.toNat_inj, Bool.and_eq_true,
    decide_eq_true_eq, seqWord_and] at h
  have hop : p &&& 15#4 = p := BitVec.and_allOnes
  exact hop ▸ seqWord_inj.1 h.2

/-- A row whose mask takes every bit covers one word. -/
theorem encode_of_covers_cmd_exact {r : TableRow} {op op' : BitVec 4} {arg pat : Byte}
    (h : r.covers (.cmd (cmdWord op arg)) = true)
    (hp : r.pattern = (cmdWord op' pat).toNat) (hm : r.mask = (cmdWord 15 0xFF).toNat) :
    RawWord.cmd (cmdWord op' pat) = .cmd (cmdWord op arg) := by
  obtain ⟨rfl, rfl⟩ := fields_of_covers_cmd h hp hm
  exact congrArg (fun x => RawWord.cmd (cmdWord op x)) BitVec.and_allOnes

/-- A row whose mask takes every bit covers one word. -/
theorem encode_of_covers_seq_exact {r : TableRow} {p p' : BitVec 4} {t pat : BitVec 6}
    (h : r.covers (.seq (seqWord p t)) = true)
    (hp : r.pattern = (seqWord p' pat).toNat) (hm : r.mask = (seqWord 15 0x3F).toNat) :
    RawWord.seq (seqWord p' pat) = .seq (seqWord p t) := by
  obtain ⟨rfl, rfl⟩ := fields_of_covers_seq h hp hm
  exact congrArg (fun x => RawWord.seq (seqWord p x)) BitVec.and_allOnes

theorem high_of_and_C0 {arg : Byte} : arg &&& 0xC0 = 0 → arg.extractLsb' 6 2 = 0 := by revert arg; decide

theorem high_of_and_38 {t : BitVec 6} : t &&& 0x38 = 0 → t.extractLsb' 3 3 = 0 := by revert t; decide

theorem high_of_and_30 {t : BitVec 6} : t &&& 0x30 = 0 → t.extractLsb' 4 2 = 0 := by revert t; decide

/-! ### The words of each row -/

/-- The two formats have different widths. -/
theorem covers_width {r : TableRow} {raw : RawWord} (h : r.covers raw = true) : r.width = raw.width := by
  simp only [TableRow.covers, Bool.and_eq_true, decide_eq_true_eq] at h
  exact h.1

theorem exists_encode_of_covers_cmd {r : TableRow} (hr : r ∈ opcodeTable) {op : BitVec 4} {arg : Byte}
    (h : r.covers (.cmd (cmdWord op arg)) = true) : ∃ i, encode i = .cmd (cmdWord op arg) ∧ i.row = r := by
  have hwidth := covers_width h
  simp only [opcodeTable, List.map_cons, List.map_nil, List.mem_append, List.mem_cons, List.not_mem_nil,
    or_false] at hr
  rcases hr with (rfl | rfl | rfl | rfl | rfl) | hseq
  case inr =>
    rcases hseq with rfl | rfl | rfl | rfl | rfl | rfl | rfl | rfl | rfl | rfl | rfl | rfl | rfl <;> cases hwidth
  · exact ⟨.init, encode_of_covers_cmd_exact h rfl rfl, rfl⟩
  · obtain ⟨rfl, -⟩ := fields_of_covers_cmd (op' := 2) (pat := 0) (mask := 0) h rfl rfl
    exact ⟨.push arg, rfl, rfl⟩
  · exact ⟨.final, encode_of_covers_cmd_exact h rfl rfl, rfl⟩
  · obtain ⟨rfl, ha⟩ := fields_of_covers_cmd (op' := 4) (pat := 0) (mask := 0xC0) h rfl rfl
    exact ⟨.rdhex (arg.extractLsb' 0 6), congrArg (fun x => RawWord.cmd (cmdWord 4 x))
      (extract_zero_append (high_of_and_C0 ha)), rfl⟩
  · obtain ⟨rfl, -⟩ := fields_of_covers_cmd (op' := 5) (pat := 0) (mask := 0) h rfl rfl
    exact ⟨.rdstat arg, rfl, rfl⟩

theorem exists_encode_of_covers_seq {r : TableRow} (hr : r ∈ opcodeTable) {p : BitVec 4} {t : BitVec 6}
    (h : r.covers (.seq (seqWord p t)) = true) : ∃ i, encode i = .seq (seqWord p t) ∧ i.row = r := by
  have hwidth := covers_width h
  simp only [opcodeTable, List.map_cons, List.map_nil, List.mem_append, List.mem_cons, List.not_mem_nil,
    or_false] at hr
  rcases hr with hcmd | rfl | rfl | rfl | rfl | rfl | rfl | rfl | rfl | rfl | rfl | rfl | rfl | rfl
  case inl => rcases hcmd with rfl | rfl | rfl | rfl | rfl <;> cases hwidth
  · exact ⟨.idle, encode_of_covers_seq_exact h rfl rfl, rfl⟩
  · exact ⟨.absorb, encode_of_covers_seq_exact h rfl rfl, rfl⟩
  · exact ⟨.pad80, encode_of_covers_seq_exact h rfl rfl, rfl⟩
  · exact ⟨.padz, encode_of_covers_seq_exact h rfl rfl, rfl⟩
  · obtain ⟨rfl, ht⟩ := fields_of_covers_seq (p' := 4) (pat := 0) (mask := 0x38) h rfl rfl
    exact ⟨.padlen (t.extractLsb' 0 3), congrArg (fun x => RawWord.seq (seqWord 4 x))
      (extract_zero_append (high_of_and_38 ht)), rfl⟩
  · obtain ⟨rfl, ht⟩ := fields_of_covers_seq (p' := 5) (pat := 0) (mask := 0x30) h rfl rfl
    exact ⟨.loadw (t.extractLsb' 0 4), congrArg (fun x => RawWord.seq (seqWord 5 x))
      (extract_zero_append (high_of_and_30 ht)), rfl⟩
  · obtain ⟨rfl, -⟩ := fields_of_covers_seq (p' := 6) (pat := 0) (mask := 0) h rfl rfl
    exact ⟨.expand t, rfl, rfl⟩
  · exact ⟨.initwr, encode_of_covers_seq_exact h rfl rfl, rfl⟩
  · obtain ⟨rfl, -⟩ := fields_of_covers_seq (p' := 8) (pat := 0) (mask := 0) h rfl rfl
    exact ⟨.round t, rfl, rfl⟩
  · exact ⟨.feedfwd, encode_of_covers_seq_exact h rfl rfl, rfl⟩
  · obtain ⟨rfl, -⟩ := fields_of_covers_seq (p' := 10) (pat := 0) (mask := 0) h rfl rfl
    exact ⟨.render t, rfl, rfl⟩
  · exact ⟨.done, encode_of_covers_seq_exact h rfl rfl, rfl⟩
  · obtain ⟨rfl, -⟩ := fields_of_covers_seq (p' := 15) (pat := 0) (mask := 0) h rfl rfl
    exact ⟨.error t, rfl, rfl⟩

/-! ### The obligations -/

theorem wordOfRow (i : Instr) : Laws.WordOfRow.Statement i := by
  cases i with
  | init => exact Laws.WordOfRow.init
  | push d => exact Laws.WordOfRow.push d
  | final => exact Laws.WordOfRow.final
  | rdhex i => exact Laws.WordOfRow.rdhex i
  | rdstat z => exact Laws.WordOfRow.rdstat z
  | idle => exact Laws.WordOfRow.idle
  | absorb => exact Laws.WordOfRow.absorb
  | pad80 => exact Laws.WordOfRow.pad80
  | padz => exact Laws.WordOfRow.padz
  | padlen t => exact Laws.WordOfRow.padlen t
  | loadw t => exact Laws.WordOfRow.loadw t
  | expand t => exact Laws.WordOfRow.expand t
  | initwr => exact Laws.WordOfRow.initwr
  | round t => exact Laws.WordOfRow.round t
  | feedfwd => exact Laws.WordOfRow.feedfwd
  | render t => exact Laws.WordOfRow.render t
  | done => exact Laws.WordOfRow.done
  | error t => exact Laws.WordOfRow.error t

/-- Settles O4: a word that decodes is the word of its instruction, which lies in its row; a word that a row
covers is the word of one of the row's instructions, and decodes to it. -/
theorem decoderFollowsTheOpcodeTable : Obligations.DecoderFollowsTheOpcodeTable := by
  refine fun raw => ⟨fun i h => encodeInvertsDecode raw i h ▸ wordOfRow i, fun r hr hcov => ?covered⟩
  case covered =>
    have hword : ∃ i, encode i = raw ∧ i.row = r := by
      cases raw with
      | cmd w => rw [← cmdWord_fields w] at hcov ⊢; exact exists_encode_of_covers_cmd hr hcov
      | seq w => rw [← seqWord_fields w] at hcov ⊢; exact exists_encode_of_covers_seq hr hcov
    obtain ⟨i, rfl, hrow⟩ := hword
    exact ⟨i, decodeInvertsEncode i, hrow⟩

/-- Settles O1: `decode` computes each of the sixteen words. -/
theorem writtenOutWordsDecode : Obligations.WrittenOutWordsDecode := by
  unfold Obligations.WrittenOutWordsDecode
  decide

end Sys2Proof
end

section
/-! PROOFS. PUSH and FINAL (44_top_level.md R154, R155) outcome by outcome. -/

namespace Sys2Proof

theorem decodeCommand_final_arg {arg : Byte} (h : arg ≠ 0) :
    decodeCommand (cmdWord 3 arg) = .error .reservedArgument := by
  simpa [decodeCommand] using h

/-- Of the wait phases in which commands are executed, IDLE and DONE are those in which no byte is taken. -/
theorem Phase.executing_not_absorb {p : Phase} (h : p ∈ [Phase.idle, Phase.done]) :
    p ∈ [Phase.idle, Phase.absorb, Phase.done] ∧ p ≠ .absorb := by
  revert h
  cases p <;> decide

end Sys2Proof

namespace Sys2Proof.Machine

variable {s : State} {d : Byte}

/-! ### The limit of `LEN` -/

theorem lenAtLimit_eq_false_iff : s.lenAtLimit = false ↔ s.len.toNat ≤ 2 ^ 64 - 16 := by
  rw [State.lenAtLimit, decide_eq_false_iff_not, Config.maxLen]
  omega

/-- Below the limit `LEN` + 8 does not wrap (10_state.md R30). -/
theorem len_add_eight (h : s.lenAtLimit = false) : (s.len + 8).toNat = s.len.toNat + 8 := by
  rw [lenAtLimit_eq_false_iff] at h
  rw [BitVec.toNat_add, show (8 : BitVec 64).toNat = 8 from rfl]
  omega

/-! ### PUSH and FINAL in ABSORB -/

theorem pushed_of_lt (h : s.fill.toNat < 63) :
    pushed d s = (((s.writeBlk s.fill.toNat d).setFill (s.fill + 1)).setLen (s.len + 8)).respond 0 := by
  have hne : s.fill ≠ 63 := by rintro h63; rw [h63] at h; exact absurd h (by decide)
  rw [pushed, if_neg hne]

theorem pushed_of_eq (h : s.fill = 63) :
    pushed d s =
      ((((s.writeBlk 63 d).setFill 64).setLen (s.len + 8)).callBlock .absorb).respond 0 := by
  rw [pushed, if_pos h, h]
  rfl

theorem execPush_full (hp : s.seq.phase = .absorb) (hl : s.lenAtLimit = false) (hf : 63 < s.fill.toNat) :
    execPush d s = .refused .fillUnreachable := by
  have hmem : s.seq.phase ∈ [Phase.idle, Phase.absorb, Phase.done] := by simp [hp]
  have hopen : ¬s.lenAtLimit = true := by simp [hl]
  exact (whenAccepted_of_mem hmem).trans
    ((legalOnlyIn_of_eq hp).trans ((if_neg hopen).trans (appendByte_full hf)))

theorem execFinal_absorb (hp : s.seq.phase = .absorb) :
    execFinal s = .next ((s.setSeq .pad80 0).respond 0) := by
  have hmem : s.seq.phase ∈ [Phase.idle, Phase.absorb, Phase.done] := by simp [hp]
  exact (whenAccepted_of_mem hmem).trans (legalOnlyIn_of_eq hp)

/-! ### The obligations -/

/-- Settles O11: with room in `LEN` the byte is appended, by `pushed_of_lt` or `pushed_of_eq`; the faults are
those of `execPush_lenOverflow` and `execPush_protocol`. -/
theorem pushAppendsAByte : Obligations.PushAppendsAByte := by
  refine fun s d => ⟨decodeInvertsEncode (.push d), ?more, ?last, fun hp => execPush_lenOverflow d hp, ?protocol,
    fun hb => cmdReady_of_isBusy hb (by decide) d⟩
  case more =>
    intro hp hl hf
    exact (execPush_absorb d hp (lenAtLimit_eq_false_iff.2 hl) (by omega)).trans
      (congrArg _ (pushed_of_lt hf))
  case last =>
    intro hp hl hf
    have hroom : s.fill.toNat ≤ 63 := by rw [hf]; decide
    exact (execPush_absorb d hp (lenAtLimit_eq_false_iff.2 hl) hroom).trans (congrArg _ (pushed_of_eq hf))
  case protocol =>
    intro hp
    obtain ⟨hmem, hne⟩ := Phase.executing_not_absorb hp
    exact execPush_protocol d hmem hne

/-- Settles O12: the word, ABSORB, the `PROTOCOL` fault and the illegal argument. -/
theorem finalClosesTheMessage : Obligations.FinalClosesTheMessage := by
  refine ⟨decodeInvertsEncode .final, fun s => ⟨execFinal_absorb, ?protocol, ?argument⟩⟩
  case protocol =>
    intro hp
    obtain ⟨hmem, hne⟩ := Phase.executing_not_absorb hp
    exact execFinal_protocol hmem hne
  case argument =>
    intro arg harg hp
    rw [runCommandWord_of_error (decodeCommand_final_arg harg), illegalCommand_of_mem hp]

end Sys2Proof.Machine
end

section
/-! PROOFS. The wait states, the renderer's character (44_top_level.md R160 to R165), and the refusals
(93_implementation_defined.md U3). -/

namespace Sys2Proof.Machine

variable {s : State}

/-! ### RENDER -/

theorem toNat_nibble (x : Word) (m : Nat) : (nibble x m).toNat = x.toNat / 2 ^ (28 - 4 * m) % 16 := by
  rw [nibble, BitVec.extractLsb'_toNat, Nat.shiftRight_eq_div_pow]

/-- The ASCII code of a digit as arithmetic (40_primitives.md R102). -/
theorem hexchar_eq_ofNat (n : BitVec 4) :
    hexchar n = BitVec.ofNat 8 (if n.toNat ≤ 9 then 0x30 + n.toNat else 0x57 + n.toNat) := by
  revert n
  decide

theorem execRender_eq (n : BitVec 6) (s : State) :
    execRender n s = .next { s.writeHex n.toNat (hexDigit s.hs n) with
      seq := if n.toNat = 63 then ⟨.done, 0⟩ else ⟨.render, BitVec.ofNat 6 (n.toNat + 1)⟩ } := by
  have hlast : n = 63 ↔ n.toNat = 63 := BitVec.toNat_inj.symm
  have hnext : n + 1 = BitVec.ofNat 6 (n.toNat + 1) := by bv_omega
  simp only [execRender, ite_setSeq, hlast, hnext]

/-- Settles O27: the step is `execRender_eq`, its character that of `hexchar_eq_ofNat`. -/
theorem renderProducesACharacter : Obligations.RenderProducesACharacter := by
  rintro s n ⟨i, hlt⟩ _ hi rfl
  obtain rfl : i = n.toNat / 8 := hi
  refine ⟨decodeSeq_word ⟨.render, n⟩, ?character⟩
  case character =>
    rw [← toNat_nibble, ← hexchar_eq_ofNat]
    exact execRender_eq n s

/-! ### The wait states -/

/-- Settles O17: each of the four wait states answers the state it is given. -/
theorem waitStatesChangeNothing : Obligations.WaitStatesChangeNothing :=
  fun _ _ => ⟨rfl, rfl, rfl, rfl⟩

/-! ### Refusals -/

theorem padlen_index_of_not_legal {t : BitVec 6} : ¬t.toNat ≤ 7 → t.extractLsb' 3 3 ≠ 0 := by
  revert t; decide

theorem loadw_index_of_not_legal {t : BitVec 6} : ¬t.toNat ≤ 15 → t.extractLsb' 4 2 ≠ 0 := by
  revert t; decide

/-- A pair outside 10_state.md R24 selects nothing, or EXPAND below 16. -/
theorem decodePhase_of_not_legal {q : Seq} (h : q.legal = false) :
    (∃ r, decodePhase q.phase q.t = .error r) ∨ decodePhase q.phase q.t = .ok (.expand q.t) ∧ q.t.toNat < 16 := by
  obtain ⟨p, t⟩ := q
  cases p with
  | round | render | error => cases h
  | expand => exact .inr ⟨rfl, by simpa [Seq.legal] using h⟩
  | idle | absorb | pad80 | padz | initwr | feedfwd | done =>
    exact .inl ⟨_, if_neg (of_decide_eq_false h)⟩
  | padlen => exact .inl ⟨_, if_neg (padlen_index_of_not_legal (of_decide_eq_false h))⟩
  | loadw => exact .inl ⟨_, if_neg (loadw_index_of_not_legal (of_decide_eq_false h))⟩

theorem sequencerStep_of_not_legal (h : s.seq.legal = false) :
    sequencerStep s = .refused .seqUnreachable := by
  rcases decodePhase_of_not_legal h with ⟨r, hr⟩ | ⟨hok, ht⟩
  · simp only [sequencerStep, decodeSeq_word, hr]
  · exact (sequencerStep_eq hok).trans (if_pos ht)

theorem execPad80_full (h : 63 < s.fill.toNat) : execPad80 s = .refused .fillUnreachable :=
  appendByte_full h

theorem execPadlen_full (n : BitVec 3) (h : 63 < s.fill.toNat) :
    execPadlen n s = .refused .fillUnreachable :=
  appendByte_full h

theorem execPadz_full (h : 64 < s.fill.toNat) : execPadz s = .refused .fillUnreachable := by
  have h64 : s.fill ≠ 64 := by intro he; rw [he] at h; exact absurd h (by decide)
  have h56 : s.fill ≠ 56 := by intro he; rw [he] at h; exact absurd h (by decide)
  rw [execPadz, if_neg h64, if_neg h56, appendByte_full (by omega)]

/-- Settles O28: EXPAND and an illegal `SEQ`, and the four instructions that append a byte. -/
theorem stopsAreNamed : Obligations.StopsAreNamed := by
  refine fun s n l d => ⟨fun hn => if_pos hn, fun hf => ⟨execPad80_full hf, execPadlen_full l hf⟩, execPadz_full,
    fun hf hp hl => execPush_full hp (lenAtLimit_eq_false_iff.2 hl) hf, fun hr hw hl => ?illegal⟩
  case illegal => exact (step_sequencer hr hw).trans (sequencerStep_of_not_legal hl)

end Sys2Proof.Machine
end

section
/-! PROOFS. Frames (10_state.md section 1, 20_memory.md R50): everything each instruction leaves unchanged, said
once, from which the four statements about frames are read off. -/

namespace Sys2Proof.Machine

variable {s t : State} {i : Instr}

theorem Memory.read_write_of_ne (m : Memory) {a a' : Nat} (b : Byte) (h : ¬a = a') :
    Memory.read (Memory.write m a b) a' = Memory.read m a' :=
  Memory.read_write_other m b (Ne.symm h)

theorem blkStore_padz (h64 : s.fill ≠ 64) (h56 : s.fill ≠ 56) : blkStore .padz s = some s.fill.toNat :=
  if_neg (not_or.2 ⟨h64, h56⟩)

theorem blkStore_push (d : Byte) (hp : s.seq.phase = .absorb) (hl : s.lenAtLimit = false) :
    blkStore (.push d) s = some s.fill.toNat :=
  if_pos ⟨hp, hl⟩

@[simp] theorem State.readW_setSeq (s : State) (p : Phase) (k n : BitVec 6) :
    (s.setSeq p k).readW n = s.readW n := rfl

theorem State.readW_writeW_of_ne (s : State) {k n : BitVec 6} (v : Word) (h : ¬k = n) :
    (s.writeW k v).readW n = s.readW n := by
  rw [State.readW_writeW, if_neg (Ne.symm h)]

/-- The instructions that never move `SEQ` nor write `CAUSE`: RDSTAT, RDHEX in DONE, the wait states. -/
def KeepsSeq (i : Instr) (s : State) : Prop :=
  (∃ z, i = .rdstat z) ∨ ((∃ n, i = .rdhex n) ∧ s.seq.phase = .done) ∨ i = .idle ∨ i = .absorb ∨
    i = .done ∨ (∃ n, i = .error n)

/-- What the instruction leaves unchanged from `s` to `t`, register by register. -/
structure Frame (i : Instr) (s t : State) : Prop where
  hs : i ≠ .init → i ≠ .feedfwd → t.hs = s.hs
  wr : i ≠ .initwr → (∀ n, i ≠ .round n) → t.wr = s.wr
  w : ∀ n, scheduleStore i ≠ some n → t.readW n = s.readW n
  blk : ∀ a, blkStore i s ≠ some a → Memory.read t.blk a = Memory.read s.blk a
  hex : ∀ a, hexStore i ≠ some a → Memory.read t.hex a = Memory.read s.hex a
  len : i ≠ .init → (∀ d, i ≠ .push d) → t.len = s.len
  ret : i ≠ .init → (∀ d, i ≠ .push d) → i ≠ .padz → (∀ n, i ≠ .padlen n) → t.ret = s.ret
  fill : i ≠ .init → (∀ d, i ≠ .push d) → i ≠ .pad80 → i ≠ .padz → (∀ n, i ≠ .padlen n) → i ≠ .feedfwd →
    t.fill = s.fill
  cause : t.seq.phase ≠ .error → t.cause = s.cause
  seq : KeepsSeq i s → t.seq = s.seq ∧ t.cause = s.cause
  input : t.input = s.input
  free : t.free = s.free
  response : i.isCommand = false → t.rspValid = s.rspValid ∧ t.rsp = s.rsp

/-! ### Outcomes that write no register but `CAUSE` and `SEQ` -/

theorem Frame.of_held (i : Instr) (s : State) : Frame i s s := by
  constructor <;> intros <;> trivial

theorem Frame.of_respond (hi : i.isCommand = true) (v : Byte) : Frame i s (s.respond v) where
  response h := absurd hi (by simp [h])
  hs _ _ := rfl
  wr _ _ := rfl
  w _ _ := rfl
  blk _ _ := rfl
  hex _ _ := rfl
  len _ _ := rfl
  ret _ _ _ _ := rfl
  fill _ _ _ _ _ _ := rfl
  cause _ := rfl
  seq _ := ⟨rfl, rfl⟩
  input := rfl
  free := rfl

theorem Frame.of_raiseCommand (hi : i.isCommand = true) (hk : ¬KeepsSeq i s) (c : Cause) :
    Frame i s (s.raiseCommand c) where
  response h := absurd hi (by simp [h])
  cause h := absurd rfl h
  seq h := absurd h hk
  hs _ _ := rfl
  wr _ _ := rfl
  w _ _ := rfl
  blk _ _ := rfl
  hex _ _ := rfl
  len _ _ := rfl
  ret _ _ _ _ := rfl
  fill _ _ _ _ _ _ := rfl
  input := rfl
  free := rfl

/-! ### Every instruction -/

theorem exec_frame (h : exec i s = .next t) : Frame i s t := by
  cases i with
  | init =>
    rcases execInit_eq_next h with ⟨-, rfl⟩ | ⟨-, rfl⟩ | ⟨-, -, rfl⟩
    · exact .of_respond rfl 0
    · exact .of_held ..
    · constructor <;> simp [KeepsSeq, Instr.isCommand, State.readW]
  | push d =>
    rcases execPush_eq_next h with ⟨-, rfl⟩ | ⟨-, rfl⟩ | ⟨-, -, -, rfl⟩ | ⟨hp, -, rfl⟩ | ⟨hp, hl, -, rfl⟩
    · exact .of_respond rfl 0
    · exact .of_held ..
    · exact .of_raiseCommand rfl (by simp [KeepsSeq]) _
    · exact .of_raiseCommand rfl (by simp [KeepsSeq]) _
    · unfold pushed
      split <;> constructor <;>
        simp +contextual [KeepsSeq, Instr.isCommand, State.readW, State.callBlock, blkStore_push d hp hl,
          Memory.read_write_of_ne]
  | final =>
    rcases execFinal_eq_next h with ⟨-, rfl⟩ | ⟨-, rfl⟩ | ⟨-, -, -, rfl⟩ | ⟨-, rfl⟩
    · exact .of_respond rfl 0
    · exact .of_held ..
    · exact .of_raiseCommand rfl (by simp [KeepsSeq]) _
    · constructor <;> simp [KeepsSeq, Instr.isCommand, State.readW]
  | rdhex n =>
    rcases execRdhex_eq_next h with ⟨-, rfl⟩ | ⟨-, rfl⟩ | ⟨-, -, hp, rfl⟩ | ⟨-, rfl⟩
    · exact .of_respond rfl 0
    · exact .of_held ..
    · exact .of_raiseCommand rfl (by simp [KeepsSeq, hp]) _
    · exact .of_respond rfl _
  | rdstat z => cases h; exact .of_respond rfl _
  | idle | absorb | done | error => cases h; exact .of_held ..
  | pad80 =>
    obtain ⟨-, rfl⟩ := execPad80_eq_next h
    constructor <;> simp +contextual [KeepsSeq, State.readW, blkStore, Memory.read_write_of_ne]
  | padz =>
    rcases execPadz_eq_next h with ⟨-, rfl⟩ | ⟨-, rfl⟩ | ⟨h64, h56, -, rfl⟩
    · constructor <;> simp [KeepsSeq, State.readW, State.callBlock]
    · constructor <;> simp [KeepsSeq, State.readW]
    · constructor <;>
        simp +contextual [KeepsSeq, State.readW, blkStore_padz h64 h56, Memory.read_write_of_ne]
  | padlen n =>
    obtain ⟨-, ⟨-, rfl⟩ | ⟨-, rfl⟩⟩ := execPadlen_eq_next h <;>
      constructor <;>
      simp +contextual [KeepsSeq, State.readW, State.callBlock, blkStore, Memory.read_write_of_ne]
  | loadw n =>
    rcases execLoadw_eq_next h with ⟨-, -, rfl⟩ | ⟨-, v, -, ⟨-, rfl⟩ | ⟨-, rfl⟩⟩
    · constructor <;> simp [KeepsSeq, State.readW, State.raise]
    all_goals constructor <;> simp +contextual [KeepsSeq, scheduleStore, State.readW_writeW_of_ne]
  | expand n =>
    obtain ⟨-, v, -, ⟨-, rfl⟩ | ⟨-, rfl⟩⟩ := execExpand_eq_next h <;> constructor <;>
      simp +contextual [KeepsSeq, scheduleStore, State.readW_writeW_of_ne]
  | initwr => cases h; constructor <;> simp [KeepsSeq, State.readW]
  | feedfwd => cases h; constructor <;> simp [KeepsSeq, State.readW]
  | round n =>
    rcases execRound_eq_next h with ⟨-, rfl⟩ | ⟨-, rfl⟩ <;> constructor <;> simp [KeepsSeq, State.readW]
  | render n =>
    rcases execRender_eq_next h with ⟨-, rfl⟩ | ⟨-, rfl⟩ <;> constructor <;>
      simp +contextual [KeepsSeq, State.readW, hexStore, Memory.read_write_of_ne]

/-! ### The obligations -/

/-- Settles O35: the clauses of `exec_frame` about `Hs`, `wr` and `W`. -/
theorem dataRegisterFrame : Obligations.DataRegisterFrame := fun _ _ _ h =>
  ⟨(exec_frame h).hs, (exec_frame h).wr, (exec_frame h).w⟩

/-- Settles O36: the clauses of `exec_frame` about the listed bytes; no instruction moves the index of the free
values, so an unlisted byte reads as before too. -/
theorem memoryFrame : Obligations.MemoryFrame := by
  intro i s t h
  have hframe := exec_frame h
  refine ⟨fun a ha => ⟨hframe.blk a ha, ?blk⟩, fun a ha => ⟨hframe.hex a ha, ?hex⟩⟩
  case blk => exact State.readBlk_congr (hframe.blk a ha) hframe.free
  case hex => exact State.readHex_congr (hframe.hex a ha) hframe.free

/-- Settles O38: the clauses of `exec_frame` about the control registers. -/
theorem controlRegisterFrame : Obligations.ControlRegisterFrame := fun _ _ _ h =>
  ⟨(exec_frame h).len, (exec_frame h).ret, (exec_frame h).fill, (exec_frame h).cause, (exec_frame h).seq⟩

/-- Settles O39: the clauses of `exec_frame` about the ports and the counter. -/
theorem portFrame : Obligations.PortFrame := fun _ _ _ h =>
  ⟨(exec_frame h).input, (exec_frame h).free, (exec_frame h).response⟩

/-- Settles O37: a read after a write, in each of the two memories. -/
theorem storedBytesReadBack : Obligations.StoredBytesReadBack := fun s a a' b =>
  ⟨State.readBlk_writeBlk s a a' b, State.readHex_writeHex s a a' b⟩

end Sys2Proof.Machine
end

section
/-! PROOFS. The sequencer and the ports (30_encoding.md R71, R73): no micro-operation reads or writes a port, so a
held word, a withdrawn one and a status read change nothing else of the step. -/

namespace Sys2Proof.Machine

variable {s t : State}

/-! ### The ports of a state -/

/-- The state with other values of the response port and of the host's queue. -/
def State.setPorts (s : State) (v : Bool) (r : Byte) (l : List HostAct) : State :=
  { s with rspValid := v, rsp := r, input := l }

theorem beginStep_eq_setPorts (s : State) : s.beginStep = s.setPorts false 0 s.nextInput := rfl

theorem beginStep_respond_eq_setPorts (s : State) (v : Byte) :
    s.beginStep.respond v = s.setPorts true v s.nextInput := rfl

/-- A function of states applied to the next state an outcome answers, if it does. -/
def mapNext (f : State → State) (o : Host.Outcome State Fault Refusal) : Host.Outcome State Fault Refusal :=
  andThen o fun t => .next (f t)

/-- A micro-operation or wait state does the same whatever the ports hold, and leaves them. -/
theorem exec_setPorts {i : Instr} (hi : i.isCommand = false) (s : State) (v : Bool) (r : Byte)
    (l : List HostAct) : exec i (s.setPorts v r l) = mapNext (·.setPorts v r l) (exec i s) := by
  cases i with
  | init | push | final | rdhex | rdstat => cases hi
  | idle | absorb | done | error | initwr | feedfwd => rfl
  | pad80 =>
    change (if s.fill.toNat ≤ 63 then _ else _) = mapNext _ (if s.fill.toNat ≤ 63 then _ else _)
    split <;> rfl
  | padz =>
    change (if s.fill = 64 then _ else if s.fill = 56 then _ else if s.fill.toNat ≤ 63 then _ else _) =
      mapNext _ (if s.fill = 64 then _ else if s.fill = 56 then _ else if s.fill.toNat ≤ 63 then _ else _)
    split_ifs <;> rfl
  | padlen n =>
    change (if s.fill.toNat ≤ 63 then Host.Outcome.next (if n = 7 then _ else _) else _) =
      mapNext _ (if s.fill.toNat ≤ 63 then .next (if n = 7 then _ else _) else _)
    split_ifs <;> rfl
  | loadw n =>
    change (if n = 0 ∧ s.fill ≠ 64 then _ else Host.Outcome.next (if n = 15 then _ else _)) =
      mapNext _ (if n = 0 ∧ s.fill ≠ 64 then _ else .next (if n = 15 then _ else _))
    split_ifs <;> rfl
  | expand n =>
    change (if n.toNat < 16 then _ else Host.Outcome.next (if n = 63 then _ else _)) =
      mapNext _ (if n.toNat < 16 then _ else .next (if n = 63 then _ else _))
    split_ifs <;> rfl
  | round n =>
    change Host.Outcome.next (if n = 63 then _ else _) = mapNext _ (.next (if n = 63 then _ else _))
    split_ifs <;> rfl
  | render n =>
    change Host.Outcome.next (if n = 63 then _ else _) = mapNext _ (.next (if n = 63 then _ else _))
    split_ifs <;> rfl

theorem sequencerStep_setPorts (s : State) (v : Bool) (r : Byte) (l : List HostAct) :
    sequencerStep (s.setPorts v r l) = mapNext (·.setPorts v r l) (sequencerStep s) := by
  simp only [sequencerStep, decodeSeq_word]
  change (match decodePhase s.seq.phase s.seq.t with | .ok i => _ | .error _ => _) = _
  cases hd : decodePhase s.seq.phase s.seq.t with
  | ok i => exact exec_setPorts (isCommand_of_decodePhase hd) s v r l
  | error => rfl

theorem mapNext_eq_next {f : State → State} {o : Host.Outcome State Fault Refusal} :
    mapNext f o = .next t ↔ ∃ u, o = .next u ∧ t = f u := by
  simp only [mapNext, andThen_eq_next, Host.Outcome.next.injEq, eq_comm (a := t)]

/-! ### The steps in which no command but a status read is executed -/

theorem cmdReady_busy {w : BitVec 12} (hb : s.seq.phase.isBusy = true) (h5 : cmdOp w ≠ 5) :
    s.cmdReady w = false :=
  cmdWord_fields w ▸ cmdReady_of_isBusy hb h5 (cmdArg w)

/-- Nothing is accepted: the micro-operation or wait state alone. -/
theorem step_unaccepted (hr : s.rst = false) (hw : s.acceptedWord = none) :
    step s = mapNext (·.setPorts false 0 s.nextInput) (sequencerStep s) := by
  rw [step_sequencer hr hw, beginStep_eq_setPorts, sequencerStep_setPorts]

/-- A status read: the micro-operation or wait state, and the response. -/
theorem step_statusRead {w : BitVec 12} (hl : s.seq.legal = true) (hr : s.rst = false)
    (hw : s.acceptedWord = some w) (h5 : cmdOp w = 5) :
    step s = mapNext (·.setPorts true s.status s.nextInput) (sequencerStep s) := by
  cases hp : s.seq.phase.isWait with
  | true => rw [step_statusRead_wait hr hw h5 hp, sequencerStep_wait hp hl]; rfl
  | false => rw [step_busy hr hw hp, beginStep_respond_eq_setPorts, sequencerStep_setPorts]

/-! ### Who responds -/

/-- In a wait phase every word is accepted, and every accepted word has a response. -/
theorem runCommandWord_rspValid {w : BitVec 12} (hp : s.seq.phase.isWait = true)
    (h : runCommandWord w s = .next t) : t.rspValid = true := by
  have held {P : Prop} (hf : s.seq.phase.isWait = false) : P := by simp [hp] at hf
  cases hd : decodeCommand w with
  | error r =>
    rw [runCommandWord_of_error hd] at h
    rcases whenAccepted_eq_next h with ⟨-, rfl⟩ | ⟨-, -, h⟩ | ⟨hf, -⟩
    · rfl
    · cases h; rfl
    · exact held hf
  | ok i =>
    rw [runCommandWord_of_ok hd] at h
    rcases decodeCommand_eq_ok hd with rfl | ⟨d, rfl⟩ | rfl | ⟨n, rfl⟩ | ⟨-, z, rfl⟩
    · rcases execInit_eq_next h with ⟨-, rfl⟩ | ⟨hf, -⟩ | ⟨-, -, rfl⟩
      exacts [rfl, held hf, rfl]
    · rcases execPush_eq_next h with ⟨-, rfl⟩ | ⟨hf, -⟩ | ⟨-, -, -, rfl⟩ | ⟨-, -, rfl⟩ | ⟨-, -, -, rfl⟩
      exacts [rfl, held hf, rfl, rfl, rfl]
    · rcases execFinal_eq_next h with ⟨-, rfl⟩ | ⟨hf, -⟩ | ⟨-, -, -, rfl⟩ | ⟨-, rfl⟩
      exacts [rfl, held hf, rfl, rfl]
    · rcases execRdhex_eq_next h with ⟨-, rfl⟩ | ⟨hf, -⟩ | ⟨-, -, -, rfl⟩ | ⟨-, rfl⟩
      exacts [rfl, held hf, rfl, rfl]
    · cases h; rfl

/-! ### The obligations -/

/-- Settles O5: the accepted command, or what `SEQ` selects. -/
theorem stepRunsTheDecodedInstruction : Obligations.StepRunsTheDecodedInstruction := fun _ _ hr =>
  ⟨fun _ hw hp hd => (step_command hr hw hp).trans (runCommandWord_of_ok hd _),
    fun hw hd => (step_sequencer hr hw).trans (sequencerStep_of_decodeSeq hd)⟩

/-- Settles O7: in each of the four steps nothing is accepted, and the two of a pair start alike. -/
theorem heldWordHasNoEffect : Obligations.HeldWordHasNoEffect := by
  intro s w l hb h5
  have hready : ¬s.cmdReady w = true := by simp [cmdReady_busy hb h5]
  have hpresent : (s.setInput (.present w :: l)).nextInput = .present w :: l := if_neg hready
  have hquiet (l' : List HostAct) : step (s.setInput (.quiet :: l')) = sequencerStep (s.setPorts false 0 l') :=
    step_sequencer rfl rfl
  refine ⟨Eq.trans ?_ (hquiet _).symm, Eq.trans ?_ (hquiet _).symm⟩
  · refine (step_sequencer (s := s.setInput (.present w :: l)) rfl (if_neg hready)).trans ?_
    rw [beginStep_eq_setPorts, hpresent]
    rfl
  · exact step_sequencer (s := s.setInput (.offer w :: l)) rfl (if_neg hready)

/-- Settles O8: reset and the sequencer leave the cleared port, an accepted word responds. -/
theorem responseExactlyWhenAccepted : Obligations.ResponseExactlyWhenAccepted := by
  intro s t h
  rcases step_cases s with ⟨hr, hs⟩ | ⟨hr, hw, hs⟩ | ⟨w, hr, hw, hp, hs⟩ | ⟨w, hr, hw, -, hs⟩ <;> rw [hs] at h
  · cases h
    simp [hr]
  · obtain ⟨hvalid, hrsp⟩ := sequencerStep_response h
    simp [hw, hvalid, hrsp]
  · simp [hr, hw, runCommandWord_rspValid (s := s.beginStep) hp h]
  · obtain ⟨hvalid, -⟩ := sequencerStep_response h
    simp [hr, hw, hvalid]

/-- Settles O9: both steps are the sequencer's, with the ports set after it. -/
theorem statusReadDisturbsNothing : Obligations.StatusReadDisturbsNothing := by
  intro s t w l hl h5 h
  have hready : s.cmdReady w = true := by simp [State.cmdReady, h5]
  have hnext : (s.setInput (.present w :: l)).nextInput = l := if_pos hready
  have hstep := (step_statusRead (s := s.setInput (.present w :: l)) hl rfl (if_pos hready) h5).symm.trans h
  rw [hnext] at hstep
  obtain ⟨u, hu, rfl⟩ := mapNext_eq_next.1 hstep
  refine ⟨?quiet, rfl, rfl⟩
  case quiet =>
    calc step (s.setInput (.quiet :: l))
      _ = sequencerStep ((s.setInput (.present w :: l)).setPorts false 0 l) := step_sequencer rfl rfl
      _ = .next (u.setPorts false 0 l) := by rw [sequencerStep_setPorts, hu]; rfl

/-! ### `LEN` -/

/-- No micro-operation writes `LEN`. -/
theorem sequencerStep_len (h : sequencerStep s = .next t) : t.len = s.len := by
  obtain ⟨i, hi, hexec⟩ := sequencerStep_eq_next h
  have hcommand := isCommand_of_decodePhase hi
  exact (exec_frame hexec).len (by rintro rfl; cases hcommand) (by rintro d rfl; cases hcommand)

/-- Of the accepted words INIT clears `LEN` and a PUSH within the limit adds 8 to it. -/
theorem runCommandWord_len {w : BitVec 12} (h : runCommandWord w s = .next t) :
    t.len = s.len ∨ t.len = 0 ∨ t.len.toNat = s.len.toNat + 8 := by
  cases hd : decodeCommand w with
  | error r =>
    rw [runCommandWord_of_error hd] at h
    rcases whenAccepted_eq_next h with ⟨-, rfl⟩ | ⟨-, -, h⟩ | ⟨-, rfl⟩
    · exact .inl rfl
    · cases h; exact .inl rfl
    · exact .inl rfl
  | ok i =>
    rw [runCommandWord_of_ok hd] at h
    by_cases hinit : i = .init
    · subst hinit
      rcases execInit_eq_next h with ⟨-, rfl⟩ | ⟨-, rfl⟩ | ⟨-, -, rfl⟩
      exacts [.inl rfl, .inl rfl, .inr (.inl rfl)]
    by_cases hpush : ∃ d, i = .push d
    · obtain ⟨d, rfl⟩ := hpush
      rcases execPush_eq_next h with ⟨-, rfl⟩ | ⟨-, rfl⟩ | ⟨-, -, -, rfl⟩ | ⟨-, -, rfl⟩ | ⟨-, hl, -, rfl⟩
      case inr.inr.inr.inr =>
        have hlen : (pushed d s).len = s.len + 8 := by unfold pushed; split <;> rfl
        exact .inr (.inr (hlen ▸ len_add_eight hl))
      all_goals exact .inl rfl
    · exact .inl ((exec_frame h).len hinit fun d hd => hpush ⟨d, hd⟩)

/-- Settles O45: reset clears `LEN`; else it is the sequencer or an accepted word. -/
theorem lenNeverWraps : Obligations.LenNeverWraps := by
  intro s t h
  rcases step_cases s with ⟨-, hs⟩ | ⟨-, -, hs⟩ | ⟨w, -, -, -, hs⟩ | ⟨w, -, -, -, hs⟩ <;> rw [hs] at h
  · cases h; exact .inr (.inl rfl)
  · exact .inl (sequencerStep_len (s := s.beginStep) h)
  · exact runCommandWord_len (s := s.beginStep) h
  · exact .inl (sequencerStep_len (s := s.beginStep.respond s.status) h)

end Sys2Proof.Machine
end

section
/-! PROOFS. Rotation and shift (40_primitives.md R93, R94), the length field loaded as words (20_memory.md R57),
the characters of the digest (R102, R111) and the tables (R104, R105). -/

namespace Sys2Proof.Machine

/-! ### Rotation and shift -/

/-- Settles O60: the library's value and bits of a logical shift; above bit 31 there is none. -/
theorem shiftRightDividesByPowerOfTwo : Obligations.ShiftRightDividesByPowerOfTwo := by
  refine fun x n => ⟨?value, fun i => ?bit⟩
  case value => rw [shr, BitVec.toNat_ushiftRight, Nat.shiftRight_eq_div_pow]
  case bit =>
    rw [shr, BitVec.getLsbD_ushiftRight, Nat.add_comm]
    split
    · rfl
    · exact x.getLsbD_of_ge _ (by omega)

theorem getLsbD_rotr (x : Word) {n i : Nat} (hn : n ≤ 31) (hi : i < 32) :
    (rotr x n).getLsbD i = x.getLsbD ((i + n) % 32) := by
  rw [rotr, BitVec.getLsbD_rotateRight, Nat.mod_eq_of_lt (show n < 32 by omega)]
  by_cases hlow : i < 32 - n
  · rw [decide_eq_true hlow, cond_true, Nat.mod_eq_of_lt (show i + n < 32 by omega), Nat.add_comm]
  · rw [decide_eq_false hlow, cond_false, decide_eq_true hi, Bool.true_and, show (i + n) % 32 = i - (32 - n) by omega]

/-- The bits that stay, shifted down, and the bits that leave at the bottom, set at the top, do not meet. -/
theorem toNat_rotr (x : Word) {n : Nat} (h1 : 1 ≤ n) (hn : n ≤ 31) :
    (rotr x n).toNat = (x.toNat / 2 ^ n + x.toNat * 2 ^ (32 - n)) % 2 ^ 32 := by
  have hdisjoint : x >>> n &&& x <<< (32 - n) = 0#32 := by
    ext i hi
    simp only [BitVec.getElem_and, BitVec.getElem_ushiftRight, BitVec.getElem_shiftLeft, BitVec.getElem_zero]
    by_cases hlow : i < 32 - n
    · simp [hlow]
    · simp [x.getLsbD_of_ge (n + i) (by omega)]
  rw [rotr, BitVec.rotateRight_def, Nat.mod_eq_of_lt (show n < 32 by omega),
    ← BitVec.add_eq_or_of_and_eq_zero _ _ hdisjoint, BitVec.toNat_add, BitVec.toNat_ushiftRight,
    BitVec.toNat_shiftLeft, Nat.shiftRight_eq_div_pow, Nat.shiftLeft_eq, Nat.add_mod_mod]

/-- Settles O54. -/
theorem rotateMovesBits : Obligations.RotateMovesBits := fun x _ h1 hn =>
  ⟨fun _ hi => getLsbD_rotr x hn hi, toNat_rotr x h1 hn⟩

/-! ### The length field -/

theorem toNat_be32 (b0 b1 b2 b3 : Byte) :
    (be32 b0 b1 b2 b3).toNat = b0.toNat * 2 ^ 24 + b1.toNat * 2 ^ 16 + b2.toNat * 2 ^ 8 + b3.toNat := by
  simp only [be32, toNat_append_eq_add]
  omega

/-- Settles O56: four bytes of `LEN` side by side. -/
theorem lengthFieldLoadsAsLen : Obligations.LengthFieldLoadsAsLen := by
  intro len
  simp only [toNat_be32, toNat_lenByte]
  constructor <;> omega

/-! ### The digest's characters -/

/-- A character is the code of 0 to 9 or of a to f. -/
theorem hexchar_range (n : BitVec 4) :
    (0x30 ≤ (hexchar n).toNat ∧ (hexchar n).toNat ≤ 0x39) ∨
    (0x61 ≤ (hexchar n).toNat ∧ (hexchar n).toNat ≤ 0x66) := by
  revert n
  decide

theorem length_hexRef (v : Words8) : (hexRef v).length = 64 := by
  simp [hexRef]

/-- Settles O58: the digest is rendered, so it has 64 characters, each from `hexchar`. -/
theorem digestIs64LowercaseHexDigits : Obligations.DigestIs64LowercaseHexDigits := by
  refine fun m => ⟨length_hexRef _, fun b hb => ?digit⟩
  case digit =>
    obtain ⟨i, -, rfl⟩ := List.mem_map.1 hb
    exact hexchar_range _

/-! ### The state after reset -/

/-- Settles O34: each value is read off `State.reset`. -/
theorem resetValues : Obligations.ResetValues :=
  ⟨rfl, rfl, rfl, rfl, rfl, rfl, rfl, rfl, rfl, rfl, rfl, fun _ => rfl⟩

/-! ### The tables -/

/-- The first 64 primes. -/
def firstPrimes : List Nat :=
  [2, 3, 5, 7, 11, 13, 17, 19, 23, 29, 31, 37, 41, 43, 47, 53, 59, 61, 67, 71, 73, 79, 83, 89, 97, 101, 103,
    107, 109, 113, 127, 131, 137, 139, 149, 151, 157, 163, 167, 173, 179, 181, 191, 193, 197, 199, 211, 223,
    227, 229, 233, 239, 241, 251, 257, 263, 269, 271, 277, 281, 283, 293, 307, 311]

/-- `k` is the first 32 bits of the fractional part of the `e`-th root of `p`, whose integer part is at most
`bound`. -/
def IsRootFraction (e bound p : Nat) (k : Word) : Prop :=
  ∃ c ∈ List.range (bound + 1), (c * 2 ^ 32 + k.toNat) ^ e ≤ p * 2 ^ (32 * e) ∧
    p * 2 ^ (32 * e) < (c * 2 ^ 32 + k.toNat + 1) ^ e

/-- The cube roots of the first 64 primes (R104). -/
theorem kRead_isRootFraction : ∀ i : BitVec 6, ∀ p ∈ firstPrimes[i.toNat]?, IsRootFraction 3 6 p (kRead i) := by
  unfold IsRootFraction
  decide

/-- The square roots of the first 8 primes (R105). -/
theorem hinit_isRootFraction : ∀ i : Fin 8, ∀ p ∈ firstPrimes[i.val]?, IsRootFraction 2 4 p (hinit.get i) := by
  unfold IsRootFraction
  decide

theorem IsRootFraction.exists_le {e bound p : Nat} {k : Word} (h : IsRootFraction e bound p k) :
    ∃ c, c ≤ bound ∧ (c * 2 ^ 32 + k.toNat) ^ e ≤ p * 2 ^ (32 * e) ∧
      p * 2 ^ (32 * e) < (c * 2 ^ 32 + k.toNat + 1) ^ e := by
  obtain ⟨c, hc, hroot⟩ := h
  exact ⟨c, Nat.lt_succ_iff.1 (List.mem_range.1 hc), hroot⟩

/-- Settles O59: the integer part of each root is found among the few it can be. -/
theorem tablesAreFractionsOfRoots : Obligations.TablesAreFractionsOfRoots := by
  refine ⟨fun i p k hp hk => ?cube, fun i p hp => (hinit_isRootFraction i p hp).exists_le⟩
  case cube =>
    subst hk
    exact (kRead_isRootFraction i p hp).exists_le

end Sys2Proof.Machine
end

section
/-! PROOFS. The micro-operations as a relation (30_encoding.md R79, R81): one constructor per outcome of the
sequencer, with what the step writes. What follows about runs and about the invariant is by cases on it. -/

namespace Sys2Proof.Machine

/-- After index `n` of a phase that counts up to `last`: the next index, or the phase that follows. -/
def Seq.loop (p : Phase) (n last : BitVec 6) (next : Seq) : Seq :=
  if n = last then next else ⟨p, n + 1⟩

/-- From `s` the sequencer goes to the state given. LOADW is listed with a full block only: its fault happens
in no state that meets the invariant (10_state.md R40). -/
inductive MicroStep (s : State) : State → Prop where
  | wait (hp : s.seq.phase.isWait = true) (hl : s.seq.legal = true) : MicroStep s s
  | pad80 (hq : s.seq = ⟨.pad80, 0⟩) (hf : s.fill.toNat ≤ 63) :
      MicroStep s (((s.writeBlk s.fill.toNat 0x80).setFill (s.fill + 1)).setSeq .padz 0)
  | padzFull (hq : s.seq = ⟨.padz, 0⟩) (hf : s.fill = 64) : MicroStep s (s.callBlock .padz)
  | padzLength (hq : s.seq = ⟨.padz, 0⟩) (hf : s.fill = 56) : MicroStep s (s.setSeq .padlen 0)
  | padzMore (hq : s.seq = ⟨.padz, 0⟩) (hf : s.fill.toNat ≤ 63) (h56 : s.fill ≠ 56) :
      MicroStep s ((s.writeBlk s.fill.toNat 0x00).setFill (s.fill + 1))
  | padlen (n : BitVec 6) (hq : s.seq = ⟨.padlen, n⟩) (hn : n.toNat < 7) (hf : s.fill.toNat = 56 + n.toNat) :
      MicroStep s (((s.writeBlk s.fill.toNat (lenByte s.len n.toNat)).setFill (s.fill + 1)).setSeq .padlen (n + 1))
  | padlenLast (hq : s.seq = ⟨.padlen, 7⟩) (hf : s.fill.toNat = 63) :
      MicroStep s (((s.writeBlk s.fill.toNat (lenByte s.len 7)).setFill (s.fill + 1)).callBlock .render)
  | loadw (n : BitVec 6) (hq : s.seq = ⟨.loadw, n⟩) (hn : n.toNat ≤ 15) (hf : s.fill = 64) :
      MicroStep s { s.writeW n (s.readBlkWord (4 * n.toNat)) with
        seq := Seq.loop .loadw n 15 ⟨.expand, 16⟩ }
  | expand (n : BitVec 6) (hq : s.seq = ⟨.expand, n⟩) (hn : 16 ≤ n.toNat) :
      MicroStep s { s.writeW n
          (scheduleFn (s.readW (n - 16)) (s.readW (n - 15)) (s.readW (n - 7)) (s.readW (n - 2))) with
        seq := Seq.loop .expand n 63 ⟨.initwr, 0⟩ }
  | initwr (hq : s.seq = ⟨.initwr, 0⟩) : MicroStep s ((s.setWr s.hs).setSeq .round 0)
  | round (n : BitVec 6) (hq : s.seq = ⟨.round, n⟩) :
      MicroStep s { s.setWr (roundFn s.wr (kRead n) (s.readW n)) with
        seq := Seq.loop .round n 63 ⟨.feedfwd, 0⟩ }
  | feedfwd (hq : s.seq = ⟨.feedfwd, 0⟩) :
      MicroStep s (((s.setHs (Words8.add s.hs s.wr)).setFill 0).setSeq s.ret.target 0)
  | render (n : BitVec 6) (hq : s.seq = ⟨.render, n⟩) :
      MicroStep s { s.writeHex n.toNat (hexDigit s.hs n) with seq := Seq.loop .render n 63 ⟨.done, 0⟩ }

variable {s t : State}

/-! ### The next index -/

theorem Seq.loop_of_eq {p : Phase} {n last : BitVec 6} {next : Seq} (h : n = last) :
    Seq.loop p n last next = next :=
  if_pos h

theorem Seq.loop_of_ne {p : Phase} {n last : BitVec 6} {next : Seq} (h : n ≠ last) :
    Seq.loop p n last next = ⟨p, n + 1⟩ :=
  if_neg h

theorem ite_setSeq_eq_loop (s : State) (p : Phase) (n last : BitVec 6) (next : Seq) :
    (if n = last then s.setSeq next.phase next.t else s.setSeq p (n + 1)) =
      { s with seq := Seq.loop p n last next } :=
  ite_setSeq (n = last) s next.phase p next.t (n + 1)

/-! ### The relation is the sequencer's step -/

theorem sequencerStep_of_seq {q : Seq} {i : Instr} (hq : s.seq = q) (hd : decodePhase q.phase q.t = .ok i) :
    sequencerStep s = exec i s :=
  sequencerStep_eq (hq ▸ hd)

theorem padlen_index {n : BitVec 6} :
    n.toNat ≤ 7 → n.extractLsb' 3 3 = 0 ∧ (n.extractLsb' 0 3).toNat = n.toNat ∧
      (n.extractLsb' 0 3).setWidth 6 = n ∧ (n.extractLsb' 0 3 = 7 ↔ n = 7) := by
  revert n; decide

theorem loadw_index {n : BitVec 6} :
    n.toNat ≤ 15 → n.extractLsb' 4 2 = 0 ∧ (n.extractLsb' 0 4).toNat = n.toNat ∧
      (n.extractLsb' 0 4).setWidth 6 = n ∧ (n.extractLsb' 0 4 = 15 ↔ n = 15) := by
  revert n; decide

theorem sequencerStep_padlen {n : BitVec 6} (hq : s.seq = ⟨.padlen, n⟩) (hn : n.toNat ≤ 7)
    (hf : s.fill.toNat = 56 + n.toNat) :
    sequencerStep s =
      let s' := (s.writeBlk s.fill.toNat (lenByte s.len n.toNat)).setFill (s.fill + 1)
      .next (if n = 7 then s'.callBlock .render else s'.setSeq .padlen (n + 1)) := by
  obtain ⟨hhigh, hval, hwide, hlast⟩ := padlen_index hn
  refine (sequencerStep_of_seq (i := .padlen (n.extractLsb' 0 3)) hq (if_pos hhigh)).trans ?_
  rw [exec, execPadlen, appendByte_room (by omega)]
  simp only [hval, hwide, hlast, hf]

theorem sequencerStep_loadw {n : BitVec 6} (hq : s.seq = ⟨.loadw, n⟩) (hn : n.toNat ≤ 15) (hf : s.fill = 64) :
    sequencerStep s = .next { s.writeW n (s.readBlkWord (4 * n.toNat)) with
      seq := Seq.loop .loadw n 15 ⟨.expand, 16⟩ } := by
  obtain ⟨hhigh, hval, hwide, hlast⟩ := loadw_index hn
  refine (sequencerStep_of_seq hq (if_pos hhigh)).trans ((if_neg fun h => h.2 hf).trans ?_)
  simp only [hval, hwide, hlast]
  exact congrArg _ (ite_setSeq_eq_loop _ .loadw n 15 ⟨.expand, 16⟩)

theorem sequencerStep_of_microStep (h : MicroStep s t) : sequencerStep s = .next t := by
  cases h with
  | wait hp hl => exact sequencerStep_wait hp hl
  | pad80 hq hf => exact (sequencerStep_of_seq hq rfl).trans (execPad80_of_le hf)
  | padzFull hq hf => exact (sequencerStep_of_seq hq rfl).trans (execPadz_of_full hf)
  | padzLength hq hf => exact (sequencerStep_of_seq hq rfl).trans (execPadz_of_eq_56 hf)
  | padzMore hq hf h56 => exact (sequencerStep_of_seq hq rfl).trans (execPadz_of_le hf h56)
  | padlen n hq hn hf =>
    have hne : n ≠ 7 := by rintro rfl; exact absurd hn (by decide)
    exact (sequencerStep_padlen hq hn.le hf).trans (congrArg _ (if_neg hne))
  | padlenLast hq hf => exact sequencerStep_padlen hq (by decide) hf
  | loadw n hq hn hf => exact sequencerStep_loadw hq hn hf
  | expand n hq hn =>
    exact (sequencerStep_of_seq hq rfl).trans ((if_neg (Nat.not_lt.2 hn)).trans
      (congrArg _ (ite_setSeq_eq_loop _ .expand n 63 ⟨.initwr, 0⟩)))
  | initwr hq => exact sequencerStep_of_seq hq rfl
  | round n hq =>
    exact (sequencerStep_of_seq hq rfl).trans
      (congrArg _ (ite_setSeq_eq_loop _ .round n 63 ⟨.feedfwd, 0⟩))
  | feedfwd hq => exact sequencerStep_of_seq hq rfl
  | render n hq =>
    exact (sequencerStep_of_seq hq rfl).trans
      (congrArg _ (ite_setSeq_eq_loop _ .render n 63 ⟨.done, 0⟩))

/-! ### From a state that meets the invariant there is an arrow -/

theorem Inv.exists_microStep (h : Inv s) : ∃ t, MicroStep s t := by
  have hl := h.seqLegal
  obtain ⟨p, n, hq⟩ : ∃ p n, s.seq = ⟨p, n⟩ := ⟨_, _, rfl⟩
  rw [hq] at hl
  have hp : s.seq.phase = p := by rw [hq]
  cases p with
  | idle | absorb | done | error => exact ⟨_, .wait (by rw [hp]; rfl) h.seqLegal⟩
  | pad80 =>
    obtain rfl : n = 0 := of_decide_eq_true hl
    exact ⟨_, .pad80 hq (h.pad80 hp)⟩
  | padz =>
    obtain rfl : n = 0 := of_decide_eq_true hl
    have hbound := h.fillBound
    by_cases h64 : s.fill = 64
    · exact ⟨_, .padzFull hq h64⟩
    by_cases h56 : s.fill = 56
    · exact ⟨_, .padzLength hq h56⟩
    · exact ⟨_, .padzMore hq (by bv_omega) h56⟩
  | padlen =>
    have hn : n.toNat ≤ 7 := of_decide_eq_true hl
    have hf : s.fill.toNat = 56 + n.toNat := by rw [h.padlen hp, hq]
    by_cases hlast : n = 7
    · subst hlast
      exact ⟨_, .padlenLast hq hf⟩
    · exact ⟨_, .padlen n hq (by bv_omega) hf⟩
  | loadw =>
    obtain ⟨hf, -⟩ := h.block (by rw [hp]; rfl)
    exact ⟨_, .loadw n hq (of_decide_eq_true hl) (BitVec.eq_of_toNat_eq hf)⟩
  | expand => exact ⟨_, .expand n hq (of_decide_eq_true hl)⟩
  | initwr =>
    obtain rfl : n = 0 := of_decide_eq_true hl
    exact ⟨_, .initwr hq⟩
  | round => exact ⟨_, .round n hq⟩
  | feedfwd =>
    obtain rfl : n = 0 := of_decide_eq_true hl
    exact ⟨_, .feedfwd hq⟩
  | render => exact ⟨_, .render n hq⟩

theorem Inv.microStep (h : Inv s) (hs : sequencerStep s = .next t) : MicroStep s t := by
  obtain ⟨u, hu⟩ := h.exists_microStep
  obtain rfl : t = u := by simpa [hs] using sequencerStep_of_microStep hu
  exact hu

end Sys2Proof.Machine
end

section
/-! PROOFS. The accepted commands as a relation (44_top_level.md R152 to R157), and a step as one: what a step from a
state that meets the invariant can be. -/

namespace Sys2Proof.Machine

/-- The word is a command that is not legal in the phase (R152 line 4). -/
inductive WrongPhase (s : State) (w : BitVec 12) : Prop where
  | push (d : Byte) (hd : decodeCommand w = .ok (.push d)) (hp : s.seq.phase ≠ .absorb)
  | final (hd : decodeCommand w = .ok .final) (hp : s.seq.phase ≠ .absorb)
  | rdhex (n : BitVec 6) (hd : decodeCommand w = .ok (.rdhex n)) (hp : s.seq.phase ≠ .done)

/-- In a wait phase the accepted word `w` takes `s` to the state given. A PUSH is listed with room in the block,
which ABSORB has in every state that meets the invariant (10_state.md R39). -/
inductive CommandStep (s : State) (w : BitVec 12) : State → Prop where
  | rdstat (h5 : cmdOp w = 5) : CommandStep s w (s.respond s.status)
  | inError (hp : s.seq.phase = .error) (h5 : cmdOp w ≠ 5) : CommandStep s w (s.respond 0)
  | illegal (hp : s.seq.phase ∈ [Phase.idle, Phase.absorb, Phase.done]) (r : Reject)
      (hd : decodeCommand w = .error r) : CommandStep s w (s.faultedBy .illegalCmd)
  | protocol (hp : s.seq.phase ∈ [Phase.idle, Phase.absorb, Phase.done]) (hw : WrongPhase s w) :
      CommandStep s w (s.faultedBy .protocol)
  | lenOverflow (d : Byte) (hd : decodeCommand w = .ok (.push d)) (hp : s.seq.phase = .absorb)
      (hl : s.lenAtLimit = true) : CommandStep s w (s.faultedBy .lenOverflow)
  | init (hd : decodeCommand w = .ok .init) (hp : s.seq.phase ∈ [Phase.idle, Phase.absorb, Phase.done]) :
      CommandStep s w ((((((s.setHs hinit).setLen 0).setFill 0).setRet .absorb).setSeq .absorb 0).respond 0)
  | push (d : Byte) (hd : decodeCommand w = .ok (.push d)) (hp : s.seq.phase = .absorb)
      (hl : s.lenAtLimit = false) (hf : s.fill.toNat < 63) :
      CommandStep s w ((((s.writeBlk s.fill.toNat d).setFill (s.fill + 1)).setLen (s.len + 8)).respond 0)
  | pushFull (d : Byte) (hd : decodeCommand w = .ok (.push d)) (hp : s.seq.phase = .absorb)
      (hl : s.lenAtLimit = false) (hf : s.fill = 63) :
      CommandStep s w
        (((((s.writeBlk s.fill.toNat d).setFill (s.fill + 1)).setLen (s.len + 8)).callBlock .absorb).respond 0)
  | final (hd : decodeCommand w = .ok .final) (hp : s.seq.phase = .absorb) :
      CommandStep s w ((s.setSeq .pad80 0).respond 0)
  | rdhex (n : BitVec 6) (hd : decodeCommand w = .ok (.rdhex n)) (hp : s.seq.phase = .done) :
      CommandStep s w (s.respond (s.readHex n.toNat))

variable {s t : State} {w : BitVec 12}

/-! ### The relation is the execution of the accepted word -/

theorem execPush_atLimit (d : Byte) (hp : s.seq.phase = .absorb) (hl : s.lenAtLimit = true) :
    execPush d s = .next (s.faultedBy .lenOverflow) :=
  (whenAccepted_of_mem (by simp [hp])).trans ((legalOnlyIn_of_eq hp).trans (if_pos hl))

theorem pushed_callBlock {d : Byte} (h : s.fill = 63) :
    pushed d s = ((((s.writeBlk s.fill.toNat d).setFill (s.fill + 1)).setLen (s.len + 8)).callBlock
      .absorb).respond 0 := by
  rw [pushed, if_pos h]

theorem runCommandWord_of_commandStep (h : CommandStep s w t) : runCommandWord w s = .next t := by
  cases h with
  | rdstat h5 => exact runCommandWord_of_ok (decodeCommand_rdstat h5) s
  | inError hp h5 => exact runCommandWord_inError hp h5
  | illegal hp r hd => exact (runCommandWord_of_error hd s).trans (illegalCommand_of_mem hp)
  | protocol hp hw =>
    cases hw with
    | push d hd hne => exact (runCommandWord_of_ok hd s).trans (execPush_protocol d hp hne)
    | final hd hne => exact (runCommandWord_of_ok hd s).trans (execFinal_protocol hp hne)
    | rdhex n hd hne => exact (runCommandWord_of_ok hd s).trans (execRdhex_protocol n hp hne)
  | lenOverflow d hd hp hl => exact (runCommandWord_of_ok hd s).trans (execPush_atLimit d hp hl)
  | init hd hp => exact (runCommandWord_of_ok hd s).trans (execInit_of_mem hp)
  | push d hd hp hl hf =>
    exact (runCommandWord_of_ok hd s).trans
      ((execPush_absorb d hp hl (by omega)).trans (congrArg _ (pushed_of_lt hf)))
  | pushFull d hd hp hl hf =>
    have hroom : s.fill.toNat ≤ 63 := by rw [hf]; decide
    exact (runCommandWord_of_ok hd s).trans
      ((execPush_absorb d hp hl hroom).trans (congrArg _ (pushed_callBlock hf)))
  | final hd hp => exact (runCommandWord_of_ok hd s).trans (execFinal_absorb hp)
  | rdhex n hd hp => exact (runCommandWord_of_ok hd s).trans (execRdhex_done n hp)

/-- Outside ERROR each word is illegal, or a command that is legal in the phase or is not. -/
theorem exists_commandStep_of_mem (hp : s.seq.phase ∈ [Phase.idle, Phase.absorb, Phase.done])
    (hf : s.seq.phase = .absorb → s.fill.toNat ≤ 63) (w : BitVec 12) : ∃ t, CommandStep s w t := by
  cases hd : decodeCommand w with
  | error r => exact ⟨_, .illegal hp r hd⟩
  | ok i =>
    rcases decodeCommand_eq_ok hd with rfl | ⟨d, rfl⟩ | rfl | ⟨n, rfl⟩ | ⟨h5, -⟩
    · exact ⟨_, .init hd hp⟩
    · by_cases ha : s.seq.phase = .absorb
      · cases hl : s.lenAtLimit with
        | true => exact ⟨_, .lenOverflow d hd ha hl⟩
        | false =>
          have hroom := hf ha
          by_cases h63 : s.fill = 63
          · exact ⟨_, .pushFull d hd ha hl h63⟩
          · exact ⟨_, .push d hd ha hl (by bv_omega)⟩
      · exact ⟨_, .protocol hp (.push d hd ha)⟩
    · by_cases ha : s.seq.phase = .absorb
      · exact ⟨_, .final hd ha⟩
      · exact ⟨_, .protocol hp (.final hd ha)⟩
    · by_cases hdone : s.seq.phase = .done
      · exact ⟨_, .rdhex n hd hdone⟩
      · exact ⟨_, .protocol hp (.rdhex n hd hdone)⟩
    · exact ⟨_, .rdstat h5⟩

/-- In ABSORB the block is never full (10_state.md R39). -/
theorem Inv.room_of_absorb (h : Inv s) (hp : s.seq.phase = .absorb) : s.fill.toNat ≤ 63 := by
  obtain ⟨hf, -⟩ := h.absorb hp
  omega

theorem Inv.exists_commandStep (h : Inv s) (hp : s.seq.phase.isWait = true) (w : BitVec 12) :
    ∃ t, CommandStep s w t := by
  by_cases he : s.seq.phase = .error
  · by_cases h5 : cmdOp w = 5
    · exact ⟨_, .rdstat h5⟩
    · exact ⟨_, .inError he h5⟩
  · exact exists_commandStep_of_mem (Phase.mem_of_wait he hp) h.room_of_absorb w

/-! ### A step -/

/-- The four kinds of step (30_encoding.md R74). -/
inductive StepTo (s t : State) : Prop where
  | reset (hr : s.rst = true) (ht : t = (s.setInput s.nextInput).resetStep)
  | unaccepted (hr : s.rst = false) (hw : s.acceptedWord = none) (hm : MicroStep s.beginStep t)
  | command (w : BitVec 12) (hr : s.rst = false) (hw : s.acceptedWord = some w)
      (hp : s.seq.phase.isWait = true) (hc : CommandStep s.beginStep w t)
  | statusRead (w : BitVec 12) (hr : s.rst = false) (hw : s.acceptedWord = some w)
      (hp : s.seq.phase.isWait = false) (hm : MicroStep (s.beginStep.respond s.status) t)

theorem step_of_stepTo (h : StepTo s t) : step s = .next t := by
  cases h with
  | reset hr ht => rw [step_reset hr, ht]
  | unaccepted hr hw hm => exact (step_sequencer hr hw).trans (sequencerStep_of_microStep hm)
  | command w hr hw hp hc => exact (step_command hr hw hp).trans (runCommandWord_of_commandStep hc)
  | statusRead w hr hw hp hm => exact (step_busy hr hw hp).trans (sequencerStep_of_microStep hm)

theorem Inv.exists_stepTo (h : Inv s) : ∃ t, StepTo s t := by
  rcases step_cases s with ⟨hr, -⟩ | ⟨hr, hw, -⟩ | ⟨w, hr, hw, hp, -⟩ | ⟨w, hr, hw, hp, -⟩
  · exact ⟨_, .reset hr rfl⟩
  · obtain ⟨t, hm⟩ := h.beginStep.exists_microStep
    exact ⟨t, .unaccepted hr hw hm⟩
  · obtain ⟨t, hc⟩ := h.beginStep.exists_commandStep hp w
    exact ⟨t, .command w hr hw hp hc⟩
  · obtain ⟨t, hm⟩ := (h.beginStep.respond s.status).exists_microStep
    exact ⟨t, .statusRead w hr hw hp hm⟩

/-- A step from a state that meets the invariant is of one of the four kinds. -/
theorem Inv.stepTo (h : Inv s) (hs : step s = .next t) : StepTo s t := by
  obtain ⟨u, hu⟩ := h.exists_stepTo
  obtain rfl : t = u := by simpa [hs] using step_of_stepTo hu
  exact hu

/-- Settles O42: one of the four kinds of step can always be taken. -/
theorem engineNeverStops : Obligations.EngineNeverStops := by
  intro s h
  obtain ⟨t, ht⟩ := h.exists_stepTo
  exact ⟨t, step_of_stepTo ht⟩

end Sys2Proof.Machine
end

section
/-! PROOFS. The invariant of reachable states (10_state.md section 8) is kept: it is split into what it says of
the block buffer and of `LEN`, and what it says of the phase `SEQ` is in. -/

namespace Sys2Proof.Machine

variable {s t : State}

/-! ### The two parts of the invariant -/

/-- What the invariant says of the registers whatever the phase. -/
structure DataInv (s : State) : Prop where
  blkWf : Memory.wf s.blk = true
  hexWf : Memory.wf s.hex = true
  lenBytes : s.len.toNat % 8 = 0
  fillBound : s.fill.toNat ≤ 64
  blkFilled : Memory.filledTo s.blk s.fill.toNat

/-- What the invariant says of the registers in each phase. -/
def PhaseInv (s : State) : Prop :=
  match s.seq.phase with
  | .absorb => s.fill.toNat = s.len.toNat / 8 % 64 ∧ s.ret = .absorb
  | .pad80 => s.fill.toNat ≤ 63
  | .padlen => s.fill.toNat = 56 + s.seq.t.toNat
  | .loadw | .expand | .initwr | .round | .feedfwd =>
    s.fill.toNat = 64 ∧ (s.ret = .absorb → s.len.toNat % 512 = 0)
  | .render => Memory.filledTo s.hex s.seq.t.toNat
  | .done => Memory.filledTo s.hex 64
  | .idle | .padz | .error => True

theorem Inv.data (h : Inv s) : DataInv s :=
  ⟨h.blkWf, h.hexWf, h.lenBytes, h.fillBound, h.blkFilled⟩

/-- The parts put together, `CAUSE` ≠ 0 exactly in ERROR (R31). -/
theorem Inv.of_parts (hd : DataInv s) (hl : s.seq.legal = true)
    (hc : s.cause ≠ .noFault ↔ s.seq.phase = .error) (hp : PhaseInv s) : Inv s where
  blkWf := hd.blkWf
  hexWf := hd.hexWf
  seqLegal := hl
  causeError := hc
  lenBytes := hd.lenBytes
  fillBound := hd.fillBound
  blkFilled := hd.blkFilled
  absorb h := by simpa only [PhaseInv, h] using hp
  pad80 h := by simpa only [PhaseInv, h] using hp
  padlen h := by simpa only [PhaseInv, h] using hp
  block h := by
    revert h hp
    unfold PhaseInv
    cases s.seq.phase with
    | loadw | expand | initwr | round | feedfwd => exact fun hp _ => hp
    | idle | absorb | pad80 | padz | padlen | render | done | error => exact fun _ h => nomatch h
  render h := by simpa only [PhaseInv, h] using hp
  done h := by simpa only [PhaseInv, h] using hp

/-- Outside ERROR. -/
theorem Inv.of_parts_noFault (hd : DataInv s) (hl : s.seq.legal = true) (hc : s.cause = .noFault)
    (hne : s.seq.phase ≠ .error) (hp : PhaseInv s) : Inv s :=
  .of_parts hd hl ⟨fun h => absurd hc h, fun h => absurd h hne⟩ hp

theorem Inv.cause_of_ne (h : Inv s) (hne : s.seq.phase ≠ .error) : s.cause = .noFault :=
  not_not.1 fun hc => hne (h.causeError.1 hc)

/-! ### What a step does to each register -/

theorem DataInv.append (h : DataInv s) (hf : s.fill.toNat ≤ 63) (b : Byte) :
    DataInv ((s.writeBlk s.fill.toNat b).setFill (s.fill + 1)) where
  blkWf := Memory.wf_write _ b h.blkWf (by omega)
  hexWf := h.hexWf
  lenBytes := h.lenBytes
  fillBound := by rw [State.setFill_fill, fill_succ hf]; omega
  blkFilled := by
    rw [State.setFill_fill, fill_succ hf]
    exact Memory.filledTo_write b h.blkFilled

theorem DataInv.setLen (h : DataInv s) {n : BitVec 64} (hn : n.toNat % 8 = 0) : DataInv (s.setLen n) :=
  ⟨h.blkWf, h.hexWf, hn, h.fillBound, h.blkFilled⟩

theorem DataInv.clearFill (h : DataInv s) : DataInv (s.setFill 0) :=
  ⟨h.blkWf, h.hexWf, h.lenBytes, Nat.zero_le _, fun _ ha => absurd ha (Nat.not_lt_zero _)⟩

theorem DataInv.writeHex (h : DataInv s) (n : BitVec 6) (b : Byte) : DataInv (s.writeHex n.toNat b) :=
  ⟨h.blkWf, Memory.wf_write _ b h.hexWf n.isLt, h.lenBytes, h.fillBound, h.blkFilled⟩

theorem DataInv.of_eq (h : DataInv s) (hblk : t.blk = s.blk) (hhex : t.hex = s.hex) (hlen : t.len = s.len)
    (hfill : t.fill = s.fill) : DataInv t := by
  obtain ⟨h1, h2, h3, h4, h5⟩ := h
  constructor <;> simpa only [hblk, hhex, hlen, hfill]

theorem loop_cases (p : Phase) (n last : BitVec 6) (next : Seq) :
    (n = last ∧ Seq.loop p n last next = next) ∨ (n ≠ last ∧ Seq.loop p n last next = ⟨p, n + 1⟩) := by
  by_cases h : n = last
  · exact .inl ⟨h, Seq.loop_of_eq h⟩
  · exact .inr ⟨h, Seq.loop_of_ne h⟩

/-! ### The micro-operations -/

theorem Inv.of_microStep (h : Inv s) (hm : MicroStep s t) : Inv t := by
  have hcause {q : Seq} (hq : s.seq = q) (hne : q.phase ≠ .error) : s.cause = .noFault :=
    h.cause_of_ne (hq ▸ hne)
  have hphase {q : Seq} (hq : s.seq = q) (hne : q.phase ≠ .error) : s.seq.phase ≠ .error := hq ▸ hne
  have hblock {q : Seq} (hq : s.seq = q) (hb : Phase.inBlock q.phase = true) := h.block (hq ▸ hb)
  cases hm with
  | wait => exact h
  | pad80 hq hf =>
    exact .of_parts_noFault ((h.data.append hf 0x80).of_eq rfl rfl rfl rfl) rfl (hcause hq nofun) nofun trivial
  | padzFull hq hf =>
    have h64 : s.fill.toNat = 64 := by rw [hf]; rfl
    exact .of_parts_noFault (h.data.of_eq rfl rfl rfl rfl) rfl (hcause hq nofun) nofun ⟨h64, nofun⟩
  | padzLength hq hf =>
    have h56 : s.fill.toNat = 56 := by rw [hf]; rfl
    exact .of_parts_noFault (h.data.of_eq rfl rfl rfl rfl) rfl (hcause hq nofun) nofun h56
  | padzMore hq hf h56 =>
    refine .of_parts_noFault (h.data.append hf 0x00) h.seqLegal (hcause hq nofun) (hphase hq nofun) ?_
    simp [PhaseInv, hq]
  | padlen n hq hn hf =>
    have hnext : (n + 1).toNat = n.toNat + 1 := by bv_omega
    have hlegal : (n + 1).toNat ≤ 7 := by omega
    have hfill : (s.fill + 1).toNat = 56 + (n + 1).toNat := by rw [fill_succ (by omega), hnext, hf, Nat.add_assoc]
    exact .of_parts_noFault ((h.data.append (by omega) (lenByte s.len n.toNat)).of_eq rfl rfl rfl rfl)
      (decide_eq_true hlegal) (hcause hq nofun) nofun hfill
  | padlenLast hq hf =>
    have h64 : (s.fill + 1).toNat = 64 := by rw [fill_succ (by omega), hf]
    exact .of_parts_noFault ((h.data.append (by omega) (lenByte s.len 7)).of_eq rfl rfl rfl rfl) rfl
      (hcause hq nofun) nofun ⟨h64, nofun⟩
  | loadw n hq hn hf =>
    obtain ⟨h64, hret⟩ := hblock hq rfl
    rcases loop_cases .loadw n 15 ⟨.expand, 16⟩ with ⟨-, hs⟩ | ⟨hne, hs⟩ <;> rw [hs]
    · exact .of_parts_noFault (h.data.of_eq rfl rfl rfl rfl) rfl (hcause hq nofun) nofun ⟨h64, hret⟩
    · have hlegal : (n + 1).toNat ≤ 15 := by bv_omega
      exact .of_parts_noFault (h.data.of_eq rfl rfl rfl rfl) (decide_eq_true hlegal) (hcause hq nofun) nofun
        ⟨h64, hret⟩
  | expand n hq hn =>
    obtain ⟨h64, hret⟩ := hblock hq rfl
    rcases loop_cases .expand n 63 ⟨.initwr, 0⟩ with ⟨-, hs⟩ | ⟨hne, hs⟩ <;> rw [hs]
    · exact .of_parts_noFault (h.data.of_eq rfl rfl rfl rfl) rfl (hcause hq nofun) nofun ⟨h64, hret⟩
    · have hlegal : 16 ≤ (n + 1).toNat := by bv_omega
      exact .of_parts_noFault (h.data.of_eq rfl rfl rfl rfl) (decide_eq_true hlegal) (hcause hq nofun) nofun
        ⟨h64, hret⟩
  | initwr hq =>
    exact .of_parts_noFault (h.data.of_eq rfl rfl rfl rfl) rfl (hcause hq nofun) nofun (hblock hq rfl)
  | round n hq =>
    rcases loop_cases .round n 63 ⟨.feedfwd, 0⟩ with ⟨-, hs⟩ | ⟨-, hs⟩ <;> rw [hs] <;>
      exact .of_parts_noFault (h.data.of_eq rfl rfl rfl rfl) rfl (hcause hq nofun) nofun (hblock hq rfl)
  | feedfwd hq =>
    obtain ⟨-, hret⟩ := hblock hq rfl
    have hdata : DataInv (((s.setHs (Words8.add s.hs s.wr)).setFill 0).setSeq s.ret.target 0) :=
      h.data.clearFill.of_eq rfl rfl rfl rfl
    cases hr : s.ret with
    | absorb =>
      have hfill : 0 = s.len.toNat / 8 % 64 := by have := hret hr; omega
      rw [hr] at hdata
      exact .of_parts_noFault hdata rfl (hcause hq nofun) nofun ⟨hfill, hr⟩
    | padz =>
      rw [hr] at hdata
      exact .of_parts_noFault hdata rfl (hcause hq nofun) nofun trivial
    | render =>
      rw [hr] at hdata
      exact .of_parts_noFault hdata rfl (hcause hq nofun) nofun fun _ ha => absurd ha (Nat.not_lt_zero _)
  | render n hq =>
    have hwritten : Memory.filledTo (Memory.write s.hex n.toNat (hexDigit s.hs n)) (n.toNat + 1) :=
      Memory.filledTo_write _ (by simpa [hq] using h.render (by rw [hq]))
    have hdata : DataInv (s.writeHex n.toNat (hexDigit s.hs n)) := h.data.writeHex n _
    rcases loop_cases .render n 63 ⟨.done, 0⟩ with ⟨rfl, hs⟩ | ⟨hne, hs⟩ <;> rw [hs]
    · exact .of_parts_noFault (hdata.of_eq rfl rfl rfl rfl) rfl (hcause hq nofun) nofun hwritten
    · have hnext : (n + 1).toNat = n.toNat + 1 := by bv_omega
      exact .of_parts_noFault (hdata.of_eq rfl rfl rfl rfl) rfl (hcause hq nofun) nofun
        (show Memory.filledTo _ (n + 1).toNat from hnext ▸ hwritten)

/-! ### The commands and reset -/

/-- Fault entry keeps everything but `CAUSE` and the phase, and ERROR asks nothing of the rest. -/
theorem Inv.faultedBy (h : Inv s) {c : Cause} (hc : c ≠ .noFault) : Inv (s.faultedBy c) :=
  .of_parts (h.data.of_eq rfl rfl rfl rfl) rfl ⟨fun _ => rfl, fun _ => hc⟩ trivial

theorem Inv.of_commandStep {w : BitVec 12} (h : Inv s) (hc : CommandStep s w t) : Inv t := by
  have hnoFault (hp : s.seq.phase = .absorb) : s.cause = .noFault := h.cause_of_ne (by rw [hp]; nofun)
  cases hc with
  | rdstat | inError | rdhex => exact h.respond _
  | illegal | protocol | lenOverflow => exact h.faultedBy nofun
  | init hd hp =>
    have hcause : s.cause = .noFault := h.cause_of_ne (Phase.wait_of_mem hp).1
    have hfill : (0 : BitVec 7).toNat = (0 : BitVec 64).toNat / 8 % 64 := by decide
    exact .of_parts_noFault ((h.data.clearFill.setLen (n := 0) rfl).of_eq rfl rfl rfl rfl) rfl hcause nofun
      ⟨hfill, rfl⟩
  | push d hd hp hl hf =>
    obtain ⟨hfill, hret⟩ := h.absorb hp
    have hlen := len_add_eight hl
    have hbytes := h.lenBytes
    have hdata : DataInv (((s.writeBlk s.fill.toNat d).setFill (s.fill + 1)).setLen (s.len + 8)) :=
      (h.data.append (by omega) d).setLen (by omega)
    have hagree : (s.fill + 1).toNat = (s.len + 8).toNat / 8 % 64 := by
      rw [fill_succ (by omega), hlen]
      omega
    refine .of_parts_noFault (hdata.of_eq rfl rfl rfl rfl) h.seqLegal (hnoFault hp) ?_ ?_
    · simp [hp]
    · simpa [PhaseInv, hp] using ⟨hagree, hret⟩
  | pushFull d hd hp hl hf =>
    obtain ⟨hfill, -⟩ := h.absorb hp
    have hlen := len_add_eight hl
    have hbytes := h.lenBytes
    have h63 : s.fill.toNat = 63 := by rw [hf]; rfl
    have hdata : DataInv (((s.writeBlk s.fill.toNat d).setFill (s.fill + 1)).setLen (s.len + 8)) :=
      (h.data.append (by omega) d).setLen (by omega)
    have hwhole : (s.len + 8).toNat % 512 = 0 := by omega
    have hfull : (s.fill + 1).toNat = 64 := by rw [fill_succ (by omega), h63]
    exact .of_parts_noFault (hdata.of_eq rfl rfl rfl rfl) rfl (hnoFault hp) nofun ⟨hfull, fun _ => hwhole⟩
  | final hd hp =>
    exact .of_parts_noFault (h.data.of_eq rfl rfl rfl rfl) rfl (hnoFault hp) nofun (h.room_of_absorb hp)

/-- With nothing listed in the memories and `SEQ`, `FILL`, `LEN` and `CAUSE` zero there is nothing to ask. -/
theorem inv_of_cleared (hblk : s.blk = []) (hhex : s.hex = []) (hseq : s.seq = ⟨.idle, 0⟩) (hfill : s.fill = 0)
    (hlen : s.len = 0) (hcause : s.cause = .noFault) : Inv s := by
  refine .of_parts_noFault ⟨?_, ?_, ?_, ?_, ?_⟩ ?_ hcause ?_ ?_
  · rw [hblk]; rfl
  · rw [hhex]; rfl
  · rw [hlen]; rfl
  · rw [hfill]; exact Nat.zero_le _
  · rw [hfill]; exact fun _ ha => absurd ha (Nat.not_lt_zero _)
  · rw [hseq]; rfl
  · rw [hseq]; nofun
  · simp [PhaseInv, hseq]

/-! ### The obligations -/

/-- Settles O40: the state after reset is cleared. -/
theorem resetMeetsTheInvariant : Obligations.ResetMeetsTheInvariant :=
  inv_of_cleared rfl rfl rfl rfl rfl rfl

/-- Settles O41: each of the four kinds of step keeps it. -/
theorem stepKeepsTheInvariant : Obligations.StepKeepsTheInvariant := by
  intro s t h hs
  cases h.stepTo hs with
  | reset hr ht => subst ht; exact inv_of_cleared rfl rfl rfl rfl rfl rfl
  | unaccepted hr hw hm => exact h.beginStep.of_microStep hm
  | command w hr hw hp hc => exact h.beginStep.of_commandStep hc
  | statusRead w hr hw hp hm => exact (h.beginStep.respond s.status).of_microStep hm

end Sys2Proof.Machine
end

section
/-! PROOFS. What the invariant gives at once: no `BLOCK_SIZE` fault (10_state.md R40), no free value that a step
depends on (R43), the arrows of `SEQ` (30_encoding.md R81). -/

namespace Sys2Proof.Machine

variable {s t : State}

/-! ### `BLOCK_SIZE` -/

theorem MicroStep.cause_eq (h : MicroStep s t) : t.cause = s.cause := by
  cases h <;> rfl

theorem CommandStep.cause_eq_or_ne {w : BitVec 12} (h : CommandStep s w t) :
    t.cause = s.cause ∨ t.cause ≠ .blockSize := by
  cases h with
  | illegal | protocol | lenOverflow => exact .inr nofun
  | rdstat | inError | init | push | pushFull | final | rdhex => exact .inl rfl

/-- Settles O30: the block is full throughout the block subroutine, and only LOADW's fault, which is none of the
four kinds of step, writes `BLOCK_SIZE`. -/
theorem blockSizeFaultIsUnreachable : Obligations.BlockSizeFaultIsUnreachable := by
  refine fun s t h hs => ⟨fun hq => ?full, fun hc => ?cause⟩
  case full =>
    obtain ⟨hf, -⟩ := h.block (by rw [hq]; rfl)
    exact ⟨BitVec.eq_of_toNat_eq hf, hf ▸ h.blkFilled⟩
  case cause =>
    cases h.stepTo hs with
    | reset hr ht => subst ht; exact nofun
    | unaccepted hr hw hm => rw [hm.cause_eq]; exact hc
    | command w hr hw hp hcmd =>
      rcases hcmd.cause_eq_or_ne with heq | hne
      · rw [heq]; exact hc
      · exact hne
    | statusRead w hr hw hp hm => rw [hm.cause_eq]; exact hc

/-! ### Free values -/

/-- The state with another index of the free values. -/
def State.setFree (s : State) (k : Nat) : State := { s with free := k }

theorem readBlkWord_setFree {a : Nat} (h : Memory.filledTo s.blk (a + 4)) (k : Nat) :
    (s.setFree k).readBlkWord a = s.readBlkWord a :=
  State.readBlkWord_congr fun i hi => State.readBlk_free (h (a + i) (by omega)) k

theorem MicroStep.setFree (h : MicroStep s t) (hblk : Memory.filledTo s.blk s.fill.toNat) (k : Nat) :
    MicroStep (s.setFree k) (t.setFree k) := by
  cases h with
  | wait hp hl => exact .wait hp hl
  | pad80 hq hf => exact .pad80 (s := s.setFree k) hq hf
  | padzFull hq hf => exact .padzFull (s := s.setFree k) hq hf
  | padzLength hq hf => exact .padzLength (s := s.setFree k) hq hf
  | padzMore hq hf h56 => exact .padzMore (s := s.setFree k) hq hf h56
  | padlen n hq hn hf => exact .padlen (s := s.setFree k) n hq hn hf
  | padlenLast hq hf => exact .padlenLast (s := s.setFree k) hq hf
  | loadw n hq hn hf =>
    have hword : (s.setFree k).readBlkWord (4 * n.toNat) = s.readBlkWord (4 * n.toNat) :=
      readBlkWord_setFree (Memory.filledTo_mono hblk (by rw [hf]; change _ ≤ 64; omega)) k
    rw [← hword]
    exact .loadw (s := s.setFree k) n hq hn hf
  | expand n hq hn => exact .expand (s := s.setFree k) n hq hn
  | initwr hq => exact .initwr (s := s.setFree k) hq
  | round n hq => exact .round (s := s.setFree k) n hq
  | feedfwd hq => exact .feedfwd (s := s.setFree k) hq
  | render n hq => exact .render (s := s.setFree k) n hq

theorem CommandStep.setFree {w : BitVec 12} (h : CommandStep s w t)
    (hhex : s.seq.phase = .done → Memory.filledTo s.hex 64) (k : Nat) :
    CommandStep (s.setFree k) w (t.setFree k) := by
  cases h with
  | rdstat h5 => exact .rdstat (s := s.setFree k) h5
  | inError hp h5 => exact .inError (s := s.setFree k) hp h5
  | illegal hp r hd => exact .illegal (s := s.setFree k) hp r hd
  | protocol hp hw =>
    refine .protocol (s := s.setFree k) hp ?_
    cases hw with
    | push d hd hne => exact .push d hd hne
    | final hd hne => exact .final hd hne
    | rdhex n hd hne => exact .rdhex n hd hne
  | lenOverflow d hd hp hl => exact .lenOverflow (s := s.setFree k) d hd hp hl
  | init hd hp => exact .init (s := s.setFree k) hd hp
  | push d hd hp hl hf => exact .push (s := s.setFree k) d hd hp hl hf
  | pushFull d hd hp hl hf => exact .pushFull (s := s.setFree k) d hd hp hl hf
  | final hd hp => exact .final (s := s.setFree k) hd hp
  | rdhex n hd hp =>
    have hchar : (s.setFree k).readHex n.toNat = s.readHex n.toNat :=
      State.readHex_free (hhex hp n.toNat n.isLt) k
    rw [← hchar]
    exact .rdhex (s := s.setFree k) n hd hp

/-- Settles O43: LOADW reads 64 bytes that `blk_written` gives, RDHEX one of the 64 of DONE. -/
theorem freeValuesAreNeverObserved : Obligations.FreeValuesAreNeverObserved := by
  refine fun s k h => ⟨fun hp a ha => h.blk_written (by rw [hp]; rfl) ha, h.done, fun hr t hs => ?same⟩
  case same =>
    cases h.stepTo hs with
    | reset hreset => simp [hr] at hreset
    | unaccepted _ hw hm =>
      exact step_of_stepTo (.unaccepted (s := s.setFree k) hr hw (hm.setFree h.blkFilled k))
    | command w _ hw hp hc => exact step_of_stepTo (.command (s := s.setFree k) w hr hw hp (hc.setFree h.done k))
    | statusRead w _ hw hp hm =>
      exact step_of_stepTo (.statusRead (s := s.setFree k) w hr hw hp (hm.setFree h.blkFilled k))

/-! ### The arrows of `SEQ` -/

/-- FEEDFWD returns where `RET` says. -/
theorem SeqArrow.feedfwd {r : Ret} (hr : s.rst = false) (hp : s.seq.phase = .feedfwd) (hs : s.ret = r) :
    SeqArrow s ⟨r.target, 0⟩ s.ret := by
  cases r with
  | absorb => exact .feedfwdAbsorb hr hp hs
  | padz => exact .feedfwdPadz hr hp hs
  | render => exact .feedfwdRender hr hp hs

/-- Each micro-operation is an arrow, also beside a status read, which `u` may have answered. -/
theorem seqArrow_of_microStep {u : State} (hr : s.rst = false) (hseq : u.seq = s.seq) (hret : u.ret = s.ret)
    (hfill : u.fill = s.fill) (hwait : s.seq.phase.isWait = true → s.acceptedWord = none)
    (h : MicroStep u t) : SeqArrow s t.seq t.ret := by
  have hphase {q : Seq} (hq : u.seq = q) : s.seq.phase = q.phase := by rw [← hseq, hq]
  have hindex {q : Seq} (hq : u.seq = q) : s.seq.t = q.t := by rw [← hseq, hq]
  cases h with
  | wait hp hl =>
    rw [hseq] at hp
    rw [hseq, hret]
    exact .nothing hr (hwait hp) hp
  | pad80 hq hf => exact hret ▸ .pad80 hr (hphase hq)
  | padzFull hq hf => exact .padzFull hr (hphase hq) (hfill ▸ hf)
  | padzLength hq hf => exact hret ▸ .padzLength hr (hphase hq) (hfill ▸ hf)
  | padzMore hq hf h56 =>
    have h64 : u.fill ≠ 64 := by intro he; rw [he] at hf; exact absurd hf (by decide)
    rw [show ((u.writeBlk u.fill.toNat 0x00).setFill (u.fill + 1)).seq = ⟨.padz, 0⟩ from hq]
    exact hret ▸ .padzMore hr (hphase hq) (hfill ▸ h64) (hfill ▸ h56)
  | padlen n hq hn hf =>
    have hi := hindex hq
    subst hi
    exact hret ▸ .padlen hr (hphase hq) hn
  | padlenLast hq hf => exact .padlenLast hr (hphase hq) (hindex hq)
  | loadw n hq hn hf =>
    obtain rfl := hindex hq
    rcases loop_cases .loadw s.seq.t 15 ⟨.expand, 16⟩ with ⟨hlast, hs⟩ | ⟨hne, hs⟩ <;> rw [hs]
    · exact hret ▸ .loadwLast hr (hphase hq) hlast
    · exact hret ▸ .loadw hr (hphase hq) (fun _ => hfill ▸ hf) (by bv_omega)
  | expand n hq hn =>
    obtain rfl := hindex hq
    rcases loop_cases .expand s.seq.t 63 ⟨.initwr, 0⟩ with ⟨hlast, hs⟩ | ⟨hne, hs⟩ <;> rw [hs]
    · exact hret ▸ .expandLast hr (hphase hq) hlast
    · exact hret ▸ .expand hr (hphase hq) (by bv_omega)
  | initwr hq => exact hret ▸ .initwr hr (hphase hq)
  | round n hq =>
    obtain rfl := hindex hq
    rcases loop_cases .round s.seq.t 63 ⟨.feedfwd, 0⟩ with ⟨hlast, hs⟩ | ⟨hne, hs⟩ <;> rw [hs]
    · exact hret ▸ .roundLast hr (hphase hq) hlast
    · exact hret ▸ .round hr (hphase hq) (by bv_omega)
  | feedfwd hq =>
    change SeqArrow s ⟨u.ret.target, 0⟩ u.ret
    rw [hret]
    exact .feedfwd hr (hphase hq) rfl
  | render n hq =>
    obtain rfl := hindex hq
    rcases loop_cases .render s.seq.t 63 ⟨.done, 0⟩ with ⟨hlast, hs⟩ | ⟨hne, hs⟩ <;> rw [hs]
    · exact hret ▸ .renderLast hr (hphase hq) hlast
    · exact hret ▸ .render hr (hphase hq) (by bv_omega)

theorem seqArrow_of_commandStep {w : BitVec 12} (hr : s.rst = false) (hw : s.acceptedWord = some w)
    (hp : s.seq.phase.isWait = true) (h : CommandStep s.beginStep w t) : SeqArrow s t.seq t.ret := by
  have accepts {i : Instr} (hd : decodeCommand w = .ok i) : s.accepts i := ⟨hr, w, hw, hd⟩
  cases h with
  | rdstat h5 => exact .rdstat (cmdArg w) (accepts (decodeCommand_rdstat h5)) hp
  | inError he h5 => exact .error hr he
  | illegal hmem r hd => exact .commandFault ⟨hr, w, hw, .inl ⟨r, hd⟩⟩ hmem
  | protocol hmem hwrong =>
    refine .commandFault ⟨hr, w, hw, .inr ?_⟩ hmem
    cases hwrong with
    | push d hd hne => exact .inl ⟨d, hd, .inl hne⟩
    | final hd hne => exact .inr (.inl ⟨hd, hne⟩)
    | rdhex n hd hne => exact .inr (.inr ⟨n, hd, hne⟩)
  | lenOverflow d hd ha hl =>
    have hmem : s.seq.phase ∈ [Phase.idle, Phase.absorb, Phase.done] := by
      rw [show s.seq.phase = .absorb from ha]; decide
    exact .commandFault ⟨hr, w, hw, .inr (.inl ⟨d, hd, .inr hl⟩)⟩ hmem
  | init hd hmem => exact .init (accepts hd) hmem
  | push d hd ha hl hf => exact .push d (accepts hd) ha hf hl
  | pushFull d hd ha hl hf => exact .pushFull d (accepts hd) ha hf hl
  | final hd ha => exact .final (accepts hd) ha
  | rdhex n hd hdone => exact .rdhex n (accepts hd) hdone

/-- Settles O44: the reset row, the arrows of the micro-operations and those of the commands. -/
theorem sequencerFollowsTheArrows : Obligations.SequencerFollowsTheArrows := by
  intro s t h hs
  cases h.stepTo hs with
  | reset hr ht => subst ht; exact .reset hr
  | unaccepted hr hw hm => exact seqArrow_of_microStep (u := s.beginStep) hr rfl rfl rfl (fun _ => hw) hm
  | command w hr hw hp hc => exact seqArrow_of_commandStep hr hw hp hc
  | statusRead w hr hw hp hm =>
    exact seqArrow_of_microStep (u := s.beginStep.respond s.status) hr rfl rfl rfl
      (fun hwait => by simp [hp] at hwait) hm

end Sys2Proof.Machine
end

section
/-! PROOFS. Busy time (70_reset_and_hazards.md R211): the number of micro-operations that are left until the
sequencer waits falls by one in every busy step, whatever the host does. -/

namespace Sys2Proof.Machine

variable {s t : State}

/-! ### The steps that are left -/

/-- From (PADZ, 0) with `f` bytes in the block: up to 56 zeros and the length complete the last block; above, the
block is completed first, and the last one begins empty. -/
def padLeft (f : Nat) : Nat := if f ≤ 56 then 259 - f else 454 - f

/-- From the return of the block subroutine. -/
def Ret.stepsLeft : Ret → Nat
  | .absorb => 0
  | .padz => padLeft 0
  | .render => 64

/-- From index `t` of a phase to the next wait phase. -/
def Phase.stepsLeft (p : Phase) (t fill : Nat) (r : Ret) : Nat :=
  match p with
  | .idle | .absorb | .done | .error => 0
  | .pad80 => 1 + padLeft (fill + 1)
  | .padz => padLeft fill
  | .padlen => 202 - t
  | .loadw | .expand => 130 - t + r.stepsLeft
  | .initwr => 66 + r.stepsLeft
  | .round => 65 - t + r.stepsLeft
  | .feedfwd => 1 + r.stepsLeft
  | .render => 64 - t

def State.stepsLeft (s : State) : Nat := Phase.stepsLeft s.seq.phase s.seq.t.toNat s.fill.toNat s.ret

theorem padLeft_le (f : Nat) : padLeft f ≤ 397 := by
  unfold padLeft; split <;> omega

theorem Ret.stepsLeft_le (r : Ret) : r.stepsLeft ≤ 259 := by
  cases r <;> decide

/-- The longest way is that of PAD80 with 56 bytes in the block. -/
theorem stepsLeft_le (s : State) : s.stepsLeft ≤ 398 := by
  have hret := s.ret.stepsLeft_le
  have hpad80 := padLeft_le (s.fill.toNat + 1)
  have hpadz := padLeft_le s.fill.toNat
  unfold State.stepsLeft Phase.stepsLeft
  split <;> omega

/-! ### Every micro-operation is one of them -/

theorem stepsLeft_eq {q : Seq} (hq : s.seq = q) :
    s.stepsLeft = Phase.stepsLeft q.phase q.t.toNat s.fill.toNat s.ret := by
  rw [State.stepsLeft, hq]

/-- One index further in a phase that counts. -/
theorem stepsLeft_loop {p : Phase} {n last : BitVec 6} {next : Seq} {fill : Nat} {r : Ret}
    (hlast : Phase.stepsLeft p last.toNat fill r = Phase.stepsLeft next.phase next.t.toNat fill r + 1)
    (hnext : n ≠ last → Phase.stepsLeft p n.toNat fill r = Phase.stepsLeft p (n + 1).toNat fill r + 1) :
    Phase.stepsLeft p n.toNat fill r =
      Phase.stepsLeft (Seq.loop p n last next).phase (Seq.loop p n last next).t.toNat fill r + 1 := by
  rcases loop_cases p n last next with ⟨rfl, hs⟩ | ⟨hne, hs⟩ <;> rw [hs]
  · exact hlast
  · exact hnext hne

theorem stepsLeft_microStep (hb : s.seq.phase.isWait = false) (h : MicroStep s t) :
    s.stepsLeft = t.stepsLeft + 1 := by
  cases h with
  | wait hp => simp [hp] at hb
  | pad80 hq hf =>
    rw [stepsLeft_eq hq, stepsLeft_eq rfl]
    simp only [Phase.stepsLeft, State.setSeq_seq, State.setSeq_fill, State.setFill_fill, fill_succ hf]
    omega
  | padzFull hq hf =>
    rw [stepsLeft_eq hq, hf]
    rfl
  | padzLength hq hf =>
    rw [stepsLeft_eq hq, hf]
    rfl
  | padzMore hq hf h56 =>
    have hne : s.fill.toNat ≠ 56 := fun he => h56 (BitVec.eq_of_toNat_eq he)
    rw [stepsLeft_eq hq, stepsLeft_eq (s := (s.writeBlk _ _).setFill _) hq]
    simp only [Phase.stepsLeft, State.setFill_fill, fill_succ hf, padLeft]
    split <;> split <;> omega
  | padlen n hq hn hf =>
    rw [stepsLeft_eq hq, stepsLeft_eq rfl]
    simp only [Phase.stepsLeft, State.setSeq_seq]
    bv_omega
  | padlenLast hq hf =>
    rw [stepsLeft_eq hq]
    rfl
  | loadw n hq hn hf =>
    rw [stepsLeft_eq hq]
    refine stepsLeft_loop ?_ fun hne => ?_ <;> simp only [Phase.stepsLeft] <;> bv_omega
  | expand n hq hn =>
    rw [stepsLeft_eq hq]
    refine stepsLeft_loop ?_ fun hne => ?_ <;> simp only [Phase.stepsLeft] <;> bv_omega
  | initwr hq =>
    rw [stepsLeft_eq hq, stepsLeft_eq rfl]
    exact Nat.add_right_comm 65 1 s.ret.stepsLeft
  | round n hq =>
    rw [stepsLeft_eq hq]
    refine stepsLeft_loop ?_ fun hne => ?_ <;> simp only [Phase.stepsLeft] <;> bv_omega
  | feedfwd hq =>
    rw [stepsLeft_eq hq, Nat.add_comm]
    cases hr : s.ret <;> rfl
  | render n hq =>
    rw [stepsLeft_eq hq]
    refine stepsLeft_loop ?_ fun hne => ?_ <;> simp only [Phase.stepsLeft] <;> bv_omega

/-! ### The host's queue -/

theorem mem_input_of_mem_nextInput {a : HostAct} (h : a ∈ s.nextInput) : a ∈ s.input := by
  revert h
  unfold State.nextInput
  split
  · next w l hi => rw [hi]; split <;> simp +contextual
  all_goals next hi => rw [hi]; simp +contextual

theorem rst_eq_false (h : ∀ a ∈ s.input, a ≠ .reset) : s.rst = false := by
  unfold State.rst
  split
  · next l hi => exact absurd rfl (h .reset (by simp [hi]))
  all_goals rfl

theorem MicroStep.input_eq (h : MicroStep s t) : t.input = s.input := by
  cases h <;> rfl

/-- A busy step without reset is a micro-operation. -/
theorem Inv.busy_step (h : Inv s) (hr : s.rst = false) (hb : s.seq.phase.isWait = false) :
    ∃ t, step s = .next t ∧ Inv t ∧ t.input = s.nextInput ∧ s.stepsLeft = t.stepsLeft + 1 := by
  obtain ⟨t, ht⟩ := h.exists_stepTo
  have hs := step_of_stepTo ht
  refine ⟨t, hs, stepKeepsTheInvariant s t h hs, ?_⟩
  cases ht with
  | reset hreset => simp [hr] at hreset
  | unaccepted _ _ hm => exact ⟨hm.input_eq, stepsLeft_microStep (s := s.beginStep) hb hm⟩
  | command w _ _ hp => simp [hb] at hp
  | statusRead w _ _ _ hm => exact ⟨hm.input_eq, stepsLeft_microStep (s := s.beginStep.respond s.status) hb hm⟩

theorem Inv.reaches_wait {n : Nat} (h : Inv s) (hin : ∀ a ∈ s.input, a ≠ .reset) (hn : s.stepsLeft ≤ n) :
    ∃ k t, k ≤ n ∧ runSteps k s = .next t ∧ t.seq.phase.isWait = true := by
  induction n generalizing s with
  | zero =>
    cases hp : s.seq.phase.isWait with
    | true => exact ⟨0, s, le_rfl, rfl, hp⟩
    | false =>
      obtain ⟨t, -, -, -, hleft⟩ := h.busy_step (rst_eq_false hin) hp
      omega
  | succ n ih =>
    cases hp : s.seq.phase.isWait with
    | true => exact ⟨0, s, Nat.zero_le _, rfl, hp⟩
    | false =>
      obtain ⟨t, hs, ht, hinput, hleft⟩ := h.busy_step (rst_eq_false hin) hp
      obtain ⟨k, u, hk, hrun, hu⟩ :=
        ih ht (fun a ha => hin a (mem_input_of_mem_nextInput (hinput ▸ ha))) (by omega)
      exact ⟨k + 1, u, by omega, by rw [runSteps, hs, andThen_next, hrun], hu⟩

/-- Settles O46: from no state more than 398 steps are left. -/
theorem busyTimeIsBounded : Obligations.BusyTimeIsBounded := fun s h _ hin => h.reaches_wait hin (stepsLeft_le s)

end Sys2Proof.Machine
end

section
/-! PROOFS. Runs of micro-operations, and one step of them under whatever the host presents (30_encoding.md R73):
the registers change as the micro-operation says, the ports apart from that. -/

namespace Sys2Proof.Machine

variable {s t u : State}

/-! ### Runs -/

/-- `n` micro-operations in a row, each in a busy phase. -/
inductive MicroRun (s : State) : Nat → State → Prop where
  | refl : MicroRun s 0 s
  | snoc {n : Nat} {t u : State} (hrun : MicroRun s n t) (hb : t.seq.phase.isWait = false)
      (hm : MicroStep t u) : MicroRun s (n + 1) u

theorem MicroRun.single (hb : s.seq.phase.isWait = false) (hm : MicroStep s t) : MicroRun s 1 t :=
  .snoc .refl hb hm

theorem MicroRun.trans {m n : Nat} (hst : MicroRun s m t) (htu : MicroRun t n u) : MicroRun s (m + n) u := by
  induction htu with
  | refl => exact hst
  | snoc _ hb hm ih => exact .snoc ih hb hm

theorem MicroRun.cause_eq {n : Nat} (h : MicroRun s n t) : t.cause = s.cause := by
  induction h with
  | refl => rfl
  | snoc _ _ hm ih => rw [hm.cause_eq, ih]

/-! ### One step of the machine -/

theorem MicroStep.seq_legal (h : MicroStep s t) : s.seq.legal = true := by
  cases h with
  | wait _ hl => exact hl
  | pad80 hq | padzFull hq | padzLength hq | padzMore hq | padlenLast hq | initwr hq | round _ hq | feedfwd hq
  | render _ hq => rw [hq]; rfl
  | padlen n hq hn => rw [hq]; exact decide_eq_true hn.le
  | loadw n hq hn => rw [hq]; exact decide_eq_true hn
  | expand n hq hn => rw [hq]; exact decide_eq_true hn

/-- No step sees what the response port held before. -/
theorem mapNext_setPorts_sequencerStep (hm : MicroStep s t) (v v' : Bool) (r r' : Byte) (l l' : List HostAct) :
    mapNext (·.setPorts v' r' l') (sequencerStep (s.setPorts v r l)) = .next (t.setPorts v' r' l') := by
  rw [sequencerStep_setPorts, sequencerStep_of_microStep hm]
  rfl

theorem step_microStep_nil (hm : MicroStep s t) (v : Bool) (r : Byte) :
    step (s.setPorts v r []) = .next (t.setPorts false 0 []) := by
  rw [step_unaccepted rfl rfl]
  exact mapNext_setPorts_sequencerStep hm ..

/-- A wait of the host, or a status read. -/
theorem step_microStep_skip (hm : MicroStep s t) {a : HostAct} (ha : a.isScriptLine = false) (v : Bool) (r : Byte)
    (l : List HostAct) : ∃ v' r', step (s.setPorts v r (a :: l)) = .next (t.setPorts v' r' l) := by
  have read {w : BitVec 12} (h5 : cmdOp w = 5) : s.cmdReady w = true := by simp [State.cmdReady, h5]
  cases a with
  | present w =>
    have h5 : cmdOp w = 5 := by simpa [HostAct.isScriptLine] using ha
    have hnext : (s.setPorts v r (.present w :: l)).nextInput = l := if_pos (read h5)
    refine ⟨true, s.status, ?_⟩
    rw [step_statusRead (s := s.setPorts v r (.present w :: l)) hm.seq_legal rfl (if_pos (read h5)) h5, hnext]
    exact mapNext_setPorts_sequencerStep hm ..
  | offer w =>
    have h5 : cmdOp w = 5 := by simpa [HostAct.isScriptLine] using ha
    refine ⟨true, s.status, ?_⟩
    rw [step_statusRead (s := s.setPorts v r (.offer w :: l)) hm.seq_legal rfl (if_pos (read h5)) h5]
    exact mapNext_setPorts_sequencerStep hm ..
  | quiet =>
    refine ⟨false, 0, ?_⟩
    rw [step_unaccepted rfl rfl]
    exact mapNext_setPorts_sequencerStep hm ..
  | reset => cases ha

/-- A held word. -/
theorem step_microStep_held (hm : MicroStep s t) (hb : s.seq.phase.isWait = false) {w : BitVec 12} (h5 : cmdOp w ≠ 5)
    (v : Bool) (r : Byte) (l : List HostAct) :
    step (s.setPorts v r (.present w :: l)) = .next (t.setPorts false 0 (.present w :: l)) := by
  have hready : ¬s.cmdReady w = true := by simp [cmdReady_busy (s := s) (by simp [Phase.isBusy, hb]) h5]
  have hnext : (s.setPorts v r (.present w :: l)).nextInput = .present w :: l := if_neg hready
  rw [step_unaccepted (s := s.setPorts v r (.present w :: l)) rfl (if_neg hready), hnext]
  exact mapNext_setPorts_sequencerStep hm ..

/-! ### Runs of the machine -/

theorem runSteps_add (m n : Nat) (s : State) : runSteps (m + n) s = andThen (runSteps m s) (runSteps n) := by
  induction m generalizing s with
  | zero => rw [Nat.zero_add]; rfl
  | succ m ih =>
    rw [Nat.succ_add, runSteps, runSteps]
    cases step s with
    | next t => exact ih t
    | fault r => rfl
    | refused r => rfl

theorem runSteps_one (s : State) : runSteps 1 s = step s := by
  rw [runSteps]
  cases step s <;> rfl

/-- With nothing presented the machine makes the micro-operations of a run. -/
theorem MicroRun.exists_runSteps {n : Nat} (h : MicroRun s n t) (hin : s.input = []) :
    ∃ v r, Machine.runSteps n s = .next (t.setPorts v r []) := by
  induction h with
  | refl => exact ⟨s.rspValid, s.rsp, by rw [← hin]; rfl⟩
  | snoc _ _ hm ih =>
    obtain ⟨v, r, hrun⟩ := ih
    exact ⟨false, 0, by rw [runSteps_add, hrun, andThen_next, runSteps_one, step_microStep_nil hm]⟩

/-- After the first of them no response is left on the port. -/
theorem MicroRun.runSteps {n : Nat} (h : MicroRun s (n + 1) t) (hin : s.input = []) :
    runSteps (n + 1) s = .next (t.setPorts false 0 []) := by
  cases h with
  | snoc hrun _ hm =>
    obtain ⟨v, r, hn⟩ := hrun.exists_runSteps hin
    rw [runSteps_add, hn, andThen_next, runSteps_one, step_microStep_nil hm]

end Sys2Proof.Machine
end

section
/-! PROOFS. The expander (42_schedule.md R132) and the block subroutine (43_compression.md R143): the invariants of
their loops, with the reference functions of 40_primitives.md R108 and R110. -/

namespace Sys2Proof.Machine

variable {s t u : State}

/-! ### Phases that count -/

/-- `SEQ` before index `n` of a phase that counts up to `last`, and after it. -/
def Seq.count (p : Phase) (last : Nat) (next : Seq) (n : Nat) : Seq :=
  if n ≤ last then ⟨p, BitVec.ofNat 6 n⟩ else next

theorem Seq.count_of_le {p : Phase} {last n : Nat} {next : Seq} (h : n ≤ last) :
    Seq.count p last next n = ⟨p, BitVec.ofNat 6 n⟩ :=
  if_pos h

theorem toNat_ofNat_six {n : Nat} (h : n < 64) : (BitVec.ofNat 6 n).toNat = n := by
  rw [BitVec.toNat_ofNat]
  omega

theorem Seq.loop_ofNat {p : Phase} {last n : Nat} {next : Seq} (hlast : last < 64) (hn : n ≤ last) :
    Seq.loop p (BitVec.ofNat 6 n) (BitVec.ofNat 6 last) next = Seq.count p last next (n + 1) := by
  rcases Nat.lt_or_eq_of_le hn with hlt | rfl
  · have hne : BitVec.ofNat 6 n ≠ BitVec.ofNat 6 last := by
      rw [Ne, ← BitVec.toNat_inj, toNat_ofNat_six (by omega), toNat_ofNat_six hlast]
      omega
    rw [Seq.loop_of_ne hne, Seq.count_of_le hlt]
    exact congrArg (Seq.mk p) (BitVec.ofNat_add_ofNat n 1)
  · rw [Seq.loop_of_eq rfl, Seq.count, if_neg (by omega)]

/-! ### The schedule word by word -/

/-- Word `n` of the schedule of the block `b` (R108). -/
def scheduleWordAt (b : List Byte) (n : Nat) : Word := (scheduleWords b (n + 1)).getD n 0

theorem length_scheduleWords (b : List Byte) (n : Nat) : (scheduleWords b n).length = n := by
  induction n with
  | zero => rfl
  | succ n ih => simp [scheduleWords, ih]

/-- A schedule goes on as it began. -/
theorem scheduleWords_eq_map (b : List Byte) (n : Nat) :
    scheduleWords b n = (List.range n).map (scheduleWordAt b) := by
  induction n with
  | zero => rfl
  | succ n ih =>
    have hlast : scheduleWords b (n + 1) = scheduleWords b n ++ [scheduleWordAt b n] := by
      simp [scheduleWordAt, scheduleWords, length_scheduleWords]
    rw [hlast, ih, List.range_succ, List.map_append]
    rfl

theorem scheduleWords_getD (b : List Byte) {i n : Nat} (h : i < n) :
    (scheduleWords b n).getD i 0 = scheduleWordAt b i := by
  simp [scheduleWords_eq_map, h]

theorem scheduleWordAt_of_lt (b : List Byte) {n : Nat} (h : n < 16) :
    scheduleWordAt b n =
      be32 (b.getD (4 * n) 0) (b.getD (4 * n + 1) 0) (b.getD (4 * n + 2) 0) (b.getD (4 * n + 3) 0) := by
  simp [scheduleWordAt, scheduleWords, length_scheduleWords, h]

theorem scheduleWordAt_of_ge (b : List Byte) {n : Nat} (h : 16 ≤ n) :
    scheduleWordAt b n = scheduleFn (scheduleWordAt b (n - 16)) (scheduleWordAt b (n - 15))
      (scheduleWordAt b (n - 7)) (scheduleWordAt b (n - 2)) := by
  have hlast : scheduleWordAt b n = scheduleFn ((scheduleWords b n).getD (n - 16) 0)
      ((scheduleWords b n).getD (n - 15) 0) ((scheduleWords b n).getD (n - 7) 0)
      ((scheduleWords b n).getD (n - 2) 0) := by
    rw [scheduleWordAt, scheduleWords]
    simp [length_scheduleWords, Nat.not_lt.2 h]
  rw [hlast, scheduleWords_getD b (by omega), scheduleWords_getD b (by omega), scheduleWords_getD b (by omega),
    scheduleWords_getD b (by omega)]

/-! ### The expander -/

/-- `SEQ` before schedule word `n` is written. -/
def expanderSeq (n : Nat) : Seq :=
  if n < 16 then ⟨.loadw, BitVec.ofNat 6 n⟩ else Seq.count .expand 63 ⟨.initwr, 0⟩ n

/-- The 64 bytes of `BLK`, written or not. -/
def State.block (s : State) : List Byte := (List.range 64).map s.readBlk

theorem readBlkWord_eq {n : Nat} (h : n < 16) : s.readBlkWord (4 * n) = scheduleWordAt s.block n := by
  have hbyte {a : Nat} (ha : a < 64) : s.block.getD a 0 = s.readBlk a := by simp [State.block, ha]
  rw [scheduleWordAt_of_lt _ h, hbyte (by omega), hbyte (by omega), hbyte (by omega), hbyte (by omega)]
  rfl

theorem readW_scheduleFn {n : Nat} (h16 : 16 ≤ n) (h64 : n < 64) {b : List Byte}
    (hw : ∀ i : BitVec 6, i.toNat < n → s.readW i = scheduleWordAt b i.toNat) :
    scheduleFn (s.readW (BitVec.ofNat 6 n - 16)) (s.readW (BitVec.ofNat 6 n - 15))
      (s.readW (BitVec.ofNat 6 n - 7)) (s.readW (BitVec.ofNat 6 n - 2)) = scheduleWordAt b n := by
  have back {k : BitVec 6} (hk : k.toNat ≤ 16) (h0 : 0 < k.toNat) :
      s.readW (BitVec.ofNat 6 n - k) = scheduleWordAt b (n - k.toNat) := by
    have hi : (BitVec.ofNat 6 n - k).toNat = n - k.toNat := by bv_omega
    rw [hw _ (by omega), hi]
  rw [scheduleWordAt_of_ge b h16, back (by decide) (by decide), back (by decide) (by decide),
    back (by decide) (by decide), back (by decide) (by decide)]
  rfl

/-- LOADW 15 is followed by EXPAND 16. -/
theorem loop_loadw {n : Nat} (h : n < 16) :
    Seq.loop .loadw (BitVec.ofNat 6 n) 15 ⟨.expand, 16⟩ = expanderSeq (n + 1) := by
  refine (Seq.loop_ofNat (last := 15) (by decide) (by omega)).trans ?_
  unfold Seq.count expanderSeq
  split
  · rw [if_pos (by omega)]
  · rw [if_neg (by omega), show n + 1 = 16 by omega]
    rfl

theorem loop_expand {n : Nat} (h16 : 16 ≤ n) (h64 : n < 64) :
    Seq.loop .expand (BitVec.ofNat 6 n) 63 ⟨.initwr, 0⟩ = expanderSeq (n + 1) := by
  rw [expanderSeq, if_neg (by omega)]
  exact Seq.loop_ofNat (last := 63) (by decide) (by omega)

theorem expander_step {n : Nat} (hn : n < 64) (hq : s.seq = expanderSeq n) (hf : s.fill = 64)
    (hw : ∀ i : BitVec 6, i.toNat < n → s.readW i = scheduleWordAt s.block i.toNat) :
    s.seq.phase.isWait = false ∧
      MicroStep s { s.writeW (BitVec.ofNat 6 n) (scheduleWordAt s.block n) with seq := expanderSeq (n + 1) } := by
  have hi := toNat_ofNat_six hn
  by_cases h16 : n < 16
  · have hseq : s.seq = ⟨.loadw, BitVec.ofNat 6 n⟩ := hq.trans (if_pos h16)
    refine ⟨by rw [hseq]; rfl, ?_⟩
    have hstep := MicroStep.loadw _ hseq (by omega) hf
    rwa [hi, readBlkWord_eq h16, loop_loadw h16] at hstep
  · have hseq : s.seq = ⟨.expand, BitVec.ofNat 6 n⟩ :=
      hq.trans ((if_neg h16).trans (Seq.count_of_le (by omega)))
    refine ⟨by rw [hseq]; rfl, ?_⟩
    have hstep := MicroStep.expand _ hseq (by omega)
    rwa [readW_scheduleFn (by omega) hn hw, loop_expand (by omega) hn] at hstep

/-- After `n` steps of the expander the first `n` words are those of the schedule. -/
theorem expander_run (hq : s.seq = ⟨.loadw, 0⟩) (hf : s.fill = 64) {n : Nat} (hn : n ≤ 64) :
    ∃ w, MicroRun s n { s with w := w, seq := expanderSeq n } ∧
      ∀ i : BitVec 6, i.toNat < n → w[i.toNat]'i.isLt = scheduleWordAt s.block i.toNat := by
  induction n with
  | zero =>
    refine ⟨s.w, ?_, fun i hi => absurd hi (Nat.not_lt_zero _)⟩
    rw [show expanderSeq 0 = s.seq from hq.symm]
    exact .refl
  | succ n ih =>
    obtain ⟨w, hrun, hw⟩ := ih (by omega)
    obtain ⟨hb, hstep⟩ := expander_step (s := { s with w := w, seq := expanderSeq n }) hn rfl hf hw
    refine ⟨_, hrun.snoc hb hstep, fun i hi => ?_⟩
    have hread := State.readW_writeW { s with w := w, seq := expanderSeq n } (BitVec.ofNat 6 n) i
      (scheduleWordAt s.block n)
    refine hread.trans ?_
    split
    · next h => rw [h, toNat_ofNat_six hn]
    · next h => exact hw i (by bv_omega)

theorem toList_eq_expandRef {b : List Byte} {w : Vector Word 64}
    (hw : ∀ i : BitVec 6, i.toNat < 64 → w[i.toNat]'i.isLt = scheduleWordAt b i.toNat) :
    w.toList = expandRef b := by
  apply List.ext_getElem
  · simp [expandRef, length_scheduleWords]
  · intro i hi _
    have hi : i < 64 := by simpa using hi
    have hword := hw (BitVec.ofNat 6 i)
    simp only [toNat_ofNat_six hi] at hword
    simpa [expandRef, scheduleWords_eq_map] using hword hi

/-- The expander: `W` becomes the schedule of the block (R132). -/
theorem expander_microRun (hq : s.seq = ⟨.loadw, 0⟩) (hf : s.fill = 64) :
    ∃ w : Vector Word 64, w.toList = expandRef s.block ∧
      MicroRun s 64 { s with w := w, seq := ⟨.initwr, 0⟩ } := by
  obtain ⟨w, hrun, hw⟩ := expander_run hq hf le_rfl
  exact ⟨w, toList_eq_expandRef hw, hrun⟩

/-- Settles O48: the run of the expander with nothing presented. -/
theorem expanderComputesTheSchedule : Obligations.ExpanderComputesTheSchedule := by
  rintro s _ hin hq hf rfl
  obtain ⟨w, hw, hrun⟩ := expander_microRun hq hf
  refine ⟨_, hrun.runSteps hin, hw, ?_⟩
  rw [← hin]
  rfl

end Sys2Proof.Machine
end

section
/-! PROOFS. The block subroutine (43_compression.md R143) and the renderer (44_top_level.md R165). -/

namespace Sys2Proof.Machine

variable {s t u : State}

/-! ### The rounds -/

theorem readW_ofNat {n : Nat} (h : n < 64) : s.readW (BitVec.ofNat 6 n) = s.w.toList.getD n 0 := by
  simp [State.readW, Nat.mod_eq_of_lt h, h]

/-- `SEQ` before round `n`. -/
def roundSeq (n : Nat) : Seq := Seq.count .round 63 ⟨.feedfwd, 0⟩ n

/-- After `n` rounds the working registers are `r_n` (40_primitives.md R110). -/
theorem rounds_run (hq : s.seq = ⟨.round, 0⟩) {n : Nat} (hn : n ≤ 64) :
    MicroRun s n { s with wr := roundsRef s.wr s.w.toList n, seq := roundSeq n } := by
  induction n with
  | zero =>
    rw [show roundSeq 0 = s.seq from hq.symm]
    exact .refl
  | succ n ih =>
    have hseq : roundSeq n = ⟨.round, BitVec.ofNat 6 n⟩ := Seq.count_of_le (by omega)
    have hnext : Seq.loop .round (BitVec.ofNat 6 n) 63 ⟨.feedfwd, 0⟩ = roundSeq (n + 1) :=
      Seq.loop_ofNat (last := 63) (by decide) (by omega)
    have hword : s.readW (BitVec.ofNat 6 n) = s.w.toList.getD n 0 := readW_ofNat (by omega)
    rw [roundsRef, ← hword, ← hnext]
    exact (ih (by omega)).snoc (by rw [hseq]; rfl) (.round _ hseq)

/-! ### The block subroutine -/

/-- The rounds from `(INITWR, 0)` on: `Hs` is taken over, and `Hs` and the result are what `compress` adds. -/
theorem compress_microRun (hq : s.seq = ⟨.initwr, 0⟩) :
    ∃ r, MicroRun s 65 { s with wr := r, seq := ⟨.feedfwd, 0⟩ } ∧ Words8.add s.hs r = compressRef s.hs s.w.toList := by
  have hinit : MicroRun s 1 ((s.setWr s.hs).setSeq .round 0) := .single (by rw [hq]; rfl) (.initwr hq)
  have hrounds := rounds_run (s := (s.setWr s.hs).setSeq .round 0) rfl (Nat.le_refl 64)
  exact ⟨_, hinit.trans hrounds, by rw [compressRef]; rfl⟩

/-- The block subroutine takes 130 micro-operations: the block is compressed into `Hs` (R143). -/
theorem block_microRun (hq : s.seq = ⟨.loadw, 0⟩) (hf : s.fill = 64) :
    ∃ hs wr w, hs = compressRef s.hs (expandRef s.block) ∧
      MicroRun s 130 { s with hs := hs, wr := wr, w := w, fill := 0, seq := ⟨s.ret.target, 0⟩ } := by
  obtain ⟨w, hw, hexpand⟩ := expander_microRun hq hf
  obtain ⟨r, hcompress, hr⟩ := compress_microRun (s := { s with w := w, seq := ⟨.initwr, 0⟩ }) rfl
  refine ⟨Words8.add s.hs r, r, w, hw ▸ hr, ?_⟩
  exact (hexpand.trans hcompress).snoc rfl (.feedfwd rfl)

/-- Settles O49: the run of the block subroutine with nothing presented. -/
theorem blockSubroutineCompresses : Obligations.BlockSubroutineCompresses := by
  rintro s _ hin hq hf rfl
  obtain ⟨hs, wr, w, hcompress, hrun⟩ := block_microRun hq hf
  exact ⟨_, hrun.runSteps hin, hcompress, rfl, rfl, rfl, rfl, rfl, rfl, rfl⟩

/-! ### Bytes written one after the other -/

/-- The bytes of the list written from address `a` on. -/
def Memory.writeAll (m : Memory) (a : Nat) : List Byte → Memory
  | [] => m
  | b :: bs => Memory.writeAll (Memory.write m a b) (a + 1) bs

theorem Memory.writeAll_append (m : Memory) (a : Nat) (bs cs : List Byte) :
    Memory.writeAll m a (bs ++ cs) = Memory.writeAll (Memory.writeAll m a bs) (a + bs.length) cs := by
  induction bs generalizing m a with
  | nil => rfl
  | cons b bs ih => rw [List.cons_append, writeAll, ih, writeAll, List.length_cons, Nat.add_right_comm]; rfl

theorem Memory.read_writeAll_below (m : Memory) {a x : Nat} (bs : List Byte) (h : x < a) :
    Memory.read (Memory.writeAll m a bs) x = Memory.read m x := by
  induction bs generalizing m a with
  | nil => rfl
  | cons b bs ih => rw [writeAll, ih _ (by omega), Memory.read_write_other m b (by omega)]

theorem Memory.read_writeAll (m : Memory) (a : Nat) (bs : List Byte) {i : Nat} (h : i < bs.length) :
    Memory.read (Memory.writeAll m a bs) (a + i) = bs[i]? := by
  induction bs generalizing m a i with
  | nil => exact absurd h (Nat.not_lt_zero i)
  | cons b bs ih =>
    rw [writeAll]
    cases i with
    | zero => exact (Memory.read_writeAll_below _ bs (Nat.lt_succ_self a)).trans (Memory.read_write_same m a b)
    | succ i =>
      rw [show a + (i + 1) = a + 1 + i by omega, ih _ _ (by simpa using h)]
      rfl

/-! ### The renderer -/

/-- The first `n` characters of the digest string. -/
def hexChars (v : Words8) (n : Nat) : List Byte := (List.range n).map fun i => hexDigit v (BitVec.ofNat 6 i)

theorem hexChars_succ (v : Words8) (n : Nat) : hexChars v (n + 1) =
    hexChars v n ++ [hexDigit v (BitVec.ofNat 6 n)] := by
  rw [hexChars, List.range_succ, List.map_append]
  rfl

theorem length_hexChars (v : Words8) (n : Nat) : (hexChars v n).length = n := by
  simp [hexChars]

/-- `SEQ` before character `n`. -/
def renderSeq (n : Nat) : Seq := Seq.count .render 63 ⟨.done, 0⟩ n

theorem render_run (hq : s.seq = ⟨.render, 0⟩) {n : Nat} (hn : n ≤ 64) :
    MicroRun s n { s with hex := Memory.writeAll s.hex 0 (hexChars s.hs n), seq := renderSeq n } := by
  induction n with
  | zero =>
    rw [show renderSeq 0 = s.seq from hq.symm]
    exact .refl
  | succ n ih =>
    have hseq : renderSeq n = ⟨.render, BitVec.ofNat 6 n⟩ := Seq.count_of_le (by omega)
    have hnext : Seq.loop .render (BitVec.ofNat 6 n) 63 ⟨.done, 0⟩ = renderSeq (n + 1) :=
      Seq.loop_ofNat (last := 63) (by decide) (by omega)
    have hstep := (ih (by omega)).snoc (by rw [hseq]; rfl) (.render _ hseq)
    rw [hnext, toNat_ofNat_six (by omega)] at hstep
    rw [hexChars_succ, Memory.writeAll_append, length_hexChars, Nat.zero_add]
    exact hstep

theorem read_writeAll_hexRef (m : Memory) (v : Words8) {a : Nat} (h : a < 64) :
    Memory.read (Memory.writeAll m 0 (hexRef v)) a = (hexRef v)[a]? := by
  rw [← Memory.read_writeAll m 0 (hexRef v) (by rwa [length_hexRef]), Nat.zero_add]

/-- The renderer: `HEX` becomes the digest string of `Hs` (R165). -/
theorem render_microRun (hq : s.seq = ⟨.render, 0⟩) :
    ∃ hex, (∀ a, a < 64 → Memory.read hex a = (hexRef s.hs)[a]?) ∧
      MicroRun s 64 { s with hex := hex, seq := ⟨.done, 0⟩ } :=
  ⟨_, fun _ => read_writeAll_hexRef s.hex s.hs, render_run hq le_rfl⟩

/-- Settles O50: the run of the renderer with nothing presented. -/
theorem rendererWritesTheDigest : Obligations.RendererWritesTheDigest := by
  intro s hin hq
  obtain ⟨hex, hread, hrun⟩ := render_microRun hq
  exact ⟨_, hrun.runSteps hin, rfl, rfl, rfl, hread⟩

end Sys2Proof.Machine
end

section
/-! PROOFS. The padder (41_padding.md R120 to R123): which bytes it appends to the block. -/

namespace Sys2Proof.Machine

variable {s t u : State}

/-! ### Bytes appended to the block -/

/-- The bytes appended one after the other: `BLK[FILL]` and so on, and `FILL` grows (10_state.md R29). -/
def State.append (s : State) (bs : List Byte) : State :=
  { s with blk := Memory.writeAll s.blk s.fill.toNat bs, fill := s.fill + BitVec.ofNat 7 bs.length }

theorem fill_append {bs : List Byte} (h : s.fill.toNat + bs.length ≤ 64) :
    (s.append bs).fill.toNat = s.fill.toNat + bs.length := by
  change (s.fill + BitVec.ofNat 7 bs.length).toNat = _
  rw [BitVec.toNat_add, BitVec.toNat_ofNat]
  omega

theorem append_nil (s : State) : s.append [] = s := by
  simp [State.append, Memory.writeAll]

theorem append_append {bs cs : List Byte} (h : s.fill.toNat + bs.length ≤ 64) :
    (s.append bs).append cs = s.append (bs ++ cs) := by
  have hfill : s.fill + BitVec.ofNat 7 bs.length + BitVec.ofNat 7 cs.length =
      s.fill + BitVec.ofNat 7 (bs ++ cs).length := by
    rw [List.length_append, BitVec.add_assoc, BitVec.ofNat_add_ofNat]
  rw [State.append, fill_append h]
  simp only [State.append, Memory.writeAll_append, hfill]

theorem append_single (s : State) (b : Byte) :
    s.append [b] = (s.writeBlk s.fill.toNat b).setFill (s.fill + 1) := rfl

theorem append_cons {b : Byte} {bs : List Byte} (h : s.fill.toNat ≤ 63) :
    s.append (b :: bs) = (s.append [b]).append bs :=
  (append_append (bs := [b]) (cs := bs) (Nat.succ_le_succ h)).symm

/-- One byte more. -/
theorem append_snoc {bs : List Byte} (b : Byte) (h : s.fill.toNat + bs.length ≤ 64) :
    ((s.append bs).writeBlk (s.append bs).fill.toNat b).setFill ((s.append bs).fill + 1) = s.append (bs ++ [b]) := by
  rw [← append_append h, append_single]

/-! ### PADZ -/

/-- PADZ appends zeros as long as it meets neither 56 nor 64 bytes. -/
theorem padz_run (hq : s.seq = ⟨.padz, 0⟩) {k : Nat}
    (hk : s.fill.toNat + k ≤ 56 ∨ 56 < s.fill.toNat ∧ s.fill.toNat + k ≤ 64) :
    MicroRun s k (s.append (List.replicate k 0x00)) := by
  induction k with
  | zero => rw [List.replicate_zero, append_nil]; exact .refl
  | succ k ih =>
    have hroom : s.fill.toNat + (List.replicate k (0x00 : Byte)).length ≤ 64 := by
      rw [List.length_replicate]; omega
    have hfill := fill_append hroom
    rw [List.length_replicate] at hfill
    rw [List.replicate_succ', ← append_snoc 0x00 hroom]
    refine (ih (by omega)).snoc (by rw [show (s.append _).seq = _ from hq]; rfl) (.padzMore hq (by omega) fun h56 => ?_)
    rw [h56] at hfill
    change 56 = _ at hfill
    omega

/-! ### PADLEN -/

/-- The eight bytes of `LEN`, the most significant first (20_memory.md R57). -/
def lenBytes (len : BitVec 64) : List Byte := (List.range 8).map (lenByte len)

theorem setSeq_of_seq {p : Phase} {n : BitVec 6} (hq : s.seq = ⟨p, n⟩) : s.setSeq p n = s := by
  rw [State.setSeq, ← hq]

theorem padlen_run (hq : s.seq = ⟨.padlen, 0⟩) (hf : s.fill.toNat = 56) {k : Nat} (hk : k ≤ 7) :
    (s.append ((List.range k).map (lenByte s.len))).fill.toNat = 56 + k ∧
      MicroRun s k ((s.append ((List.range k).map (lenByte s.len))).setSeq .padlen (BitVec.ofNat 6 k)) := by
  have hlength (j : Nat) : ((List.range j).map (lenByte s.len)).length = j := by simp
  refine ⟨by rw [fill_append (by rw [hlength]; omega), hlength, hf], ?_⟩
  induction k with
  | zero =>
    rw [List.range_zero, List.map_nil, append_nil, show BitVec.ofNat 6 0 = 0 from rfl, setSeq_of_seq hq]
    exact .refl
  | succ k ih =>
    have hi := toNat_ofNat_six (n := k) (by omega)
    have hroom : s.fill.toNat + ((List.range k).map (lenByte s.len)).length ≤ 64 := by rw [hlength]; omega
    have hfill := fill_append hroom
    rw [hlength, hf] at hfill
    have hstep := (ih (by omega)).snoc rfl (.padlen (BitVec.ofNat 6 k) rfl (by omega) (by rw [hi]; exact hfill))
    rw [hi] at hstep
    rw [List.range_succ, List.map_append, List.map_singleton, ← append_snoc _ hroom, ← BitVec.ofNat_add_ofNat k 1]
    exact hstep

/-- PADLEN appends the length and calls the block subroutine for the last time (R122). -/
theorem padlen_microRun (hq : s.seq = ⟨.padlen, 0⟩) (hf : s.fill.toNat = 56) :
    MicroRun s 8 ((s.append (lenBytes s.len)).callBlock .render) := by
  obtain ⟨hfill, hrun⟩ := padlen_run hq hf (Nat.le_refl 7)
  have hroom : s.fill.toNat + ((List.range 7).map (lenByte s.len)).length ≤ 64 := by simp [hf]
  rw [lenBytes, List.range_succ, List.map_append, List.map_singleton, ← append_snoc _ hroom]
  generalize (List.range 7).map (lenByte s.len) = bytes at hfill hrun
  exact hrun.snoc rfl (.padlenLast rfl hfill)

/-! ### A block completed -/

/-- With `f` up to 56 bytes in the block: zeros and the length. -/
def lastBytes (f : Nat) (len : BitVec 64) : List Byte := List.replicate (56 - f) 0x00 ++ lenBytes len

theorem length_lenBytes (len : BitVec 64) : (lenBytes len).length = 8 := by
  simp [lenBytes]

theorem length_lastBytes {f : Nat} (h : f ≤ 56) (len : BitVec 64) : f + (lastBytes f len).length = 64 := by
  rw [lastBytes, List.length_append, List.length_replicate, length_lenBytes]
  omega

/-- From PADZ with up to 56 bytes in the block. -/
theorem padz_completes_last (hq : s.seq = ⟨.padz, 0⟩) (hf : s.fill.toNat ≤ 56) :
    ∃ n, MicroRun s n ((s.append (lastBytes s.fill.toNat s.len)).callBlock .render) := by
  have hlength : (List.replicate (56 - s.fill.toNat) (0x00 : Byte)).length = 56 - s.fill.toNat :=
    List.length_replicate
  have hroom : s.fill.toNat + (List.replicate (56 - s.fill.toNat) (0x00 : Byte)).length ≤ 64 := by omega
  have h56 : (s.append (List.replicate (56 - s.fill.toNat) 0x00)).fill.toNat = 56 := by
    rw [fill_append hroom]
    omega
  have hzeros := padz_run hq (k := 56 - s.fill.toNat) (by omega)
  have hbranch := hzeros.snoc (by rw [show (s.append _).seq = _ from hq]; rfl)
    (.padzLength hq (BitVec.eq_of_toNat_eq h56))
  rw [lastBytes, ← append_append hroom]
  exact ⟨_, hbranch.trans (padlen_microRun rfl h56)⟩

/-- From PADZ above 56 bytes: zeros up to the end of the block. -/
theorem padz_completes_full (hq : s.seq = ⟨.padz, 0⟩) (h56 : 56 < s.fill.toNat) (h64 : s.fill.toNat ≤ 64) :
    ∃ n, MicroRun s n ((s.append (List.replicate (64 - s.fill.toNat) 0x00)).callBlock .padz) := by
  have hlength : (List.replicate (64 - s.fill.toNat) (0x00 : Byte)).length = 64 - s.fill.toNat :=
    List.length_replicate
  have hfull : (s.append (List.replicate (64 - s.fill.toNat) 0x00)).fill.toNat = 64 := by
    rw [fill_append (by omega)]
    omega
  have hzeros := padz_run hq (k := 64 - s.fill.toNat) (by omega)
  exact ⟨_, hzeros.snoc (by rw [show (s.append _).seq = _ from hq]; rfl)
    (.padzFull hq (BitVec.eq_of_toNat_eq hfull))⟩

section
variable (hq : s.seq = ⟨.pad80, 0⟩)
include hq

theorem pad80_microRun (hf : s.fill.toNat ≤ 63) :
    MicroRun s 1 ((s.append [0x80]).setSeq .padz 0) ∧
      ((s.append [0x80]).setSeq .padz 0).fill.toNat = s.fill.toNat + 1 :=
  ⟨.single (by rw [hq]; rfl) (.pad80 hq hf), fill_succ hf⟩

/-- From PAD80 with up to 55 bytes in the block (R123). -/
theorem pad80_completes_last (hf : s.fill.toNat ≤ 55) :
    ∃ n, MicroRun s n ((s.append (0x80 :: lastBytes (s.fill.toNat + 1) s.len)).callBlock .render) := by
  obtain ⟨hflag, hfill⟩ := pad80_microRun hq (by omega)
  obtain ⟨n, hrun⟩ := padz_completes_last (s := (s.append [0x80]).setSeq .padz 0) rfl (by omega)
  rw [hfill] at hrun
  rw [append_cons (by omega)]
  exact ⟨_, hflag.trans hrun⟩

/-- From PAD80 with 56 bytes or more: another block follows (R123). -/
theorem pad80_completes_full (h56 : 56 ≤ s.fill.toNat) (h63 : s.fill.toNat ≤ 63) :
    ∃ n, MicroRun s n ((s.append (0x80 :: List.replicate (63 - s.fill.toNat) 0x00)).callBlock .padz) := by
  obtain ⟨hflag, hfill⟩ := pad80_microRun hq h63
  obtain ⟨n, hrun⟩ := padz_completes_full (s := (s.append [0x80]).setSeq .padz 0) rfl (by omega) (by omega)
  rw [hfill, show 64 - (s.fill.toNat + 1) = 63 - s.fill.toNat by omega] at hrun
  rw [append_cons h63]
  exact ⟨_, hflag.trans hrun⟩

end

/-! ### What is in the block then -/

theorem read_append_below (s : State) (bs : List Byte) {a : Nat} (h : a < s.fill.toNat) :
    Memory.read (s.append bs).blk a = Memory.read s.blk a :=
  Memory.read_writeAll_below s.blk bs h

theorem read_append (s : State) (bs : List Byte) {a : Nat} (hf : s.fill.toNat ≤ a)
    (h : a < s.fill.toNat + bs.length) : Memory.read (s.append bs).blk a = bs[a - s.fill.toNat]? := by
  have hread := Memory.read_writeAll s.blk s.fill.toNat bs (i := a - s.fill.toNat) (by omega)
  rwa [Nat.add_sub_cancel' hf] at hread

/-- Byte `a` of the block that holds the length. -/
def lastByteAt (len : BitVec 64) (a : Nat) : Byte :=
  if a < 56 then 0x00 else BitVec.ofNat 8 (len.toNat / 2 ^ (8 * (63 - a)))

theorem getElem?_lastBytes {f a : Nat} (hf : f ≤ 56) (ha : f ≤ a) (h64 : a < 64) (len : BitVec 64) :
    (lastBytes f len)[a - f]? = some (lastByteAt len a) := by
  unfold lastBytes lastByteAt
  by_cases h : a < 56
  · rw [if_pos h, List.getElem?_append_left (by rw [List.length_replicate]; omega)]
    exact List.getElem?_replicate_of_lt (by omega)
  · rw [if_neg h, List.getElem?_append_right (by rw [List.length_replicate]; omega), List.length_replicate, lenBytes,
      show a - f - (56 - f) = a - 56 by omega, List.getElem?_map, List.getElem?_range (by omega), Option.map_some,
      lenByte_eq_ofNat, show 56 - 8 * (a - 56) = 8 * (63 - a) by omega]

theorem some_lastByteAt (len : BitVec 64) (a : Nat) :
    some (lastByteAt len a) =
      if a < 56 then some 0x00 else some (BitVec.ofNat 8 (len.toNat / 2 ^ (8 * (63 - a)))) := by
  unfold lastByteAt
  split <;> rfl

/-- A flag byte and more bytes appended: what each address reads as. -/
theorem read_append_flag (s : State) (bs : List Byte) {a : Nat} (h : a < s.fill.toNat + (0x80 :: bs).length) :
    Memory.read (s.append (0x80 :: bs)).blk a =
      if a < s.fill.toNat then Memory.read s.blk a
      else if a = s.fill.toNat then some 0x80
      else bs[a - (s.fill.toNat + 1)]? := by
  rcases Nat.lt_trichotomy a s.fill.toNat with hlt | heq | hgt
  · rw [if_pos hlt, read_append_below s _ hlt]
  · rw [if_neg (by omega), if_pos heq, read_append s _ heq.ge h, heq, Nat.sub_self]
    rfl
  · rw [if_neg (by omega), if_neg (by omega), read_append s _ hgt.le h,
      show a - s.fill.toNat = a - (s.fill.toNat + 1) + 1 by omega]
    rfl

theorem fill_append_eq_64 {bs : List Byte} (h : s.fill.toNat + bs.length = 64) : (s.append bs).fill = 64 :=
  BitVec.eq_of_toNat_eq ((fill_append h.le).trans h)

/-- Settles O47: the three runs of the padder, and where each address lies in the bytes they append. -/
theorem padderCompletesTheBlock : Obligations.PadderCompletesTheBlock := by
  rintro s _ hin rfl
  refine ⟨fun hq hf => ?last, fun hq h56 h63 => ?full, fun hq h0 => ?empty⟩
  case last =>
    obtain ⟨n, hrun⟩ := pad80_completes_last hq hf
    obtain ⟨v, r, hsteps⟩ := hrun.exists_runSteps hin
    have hlength : s.fill.toNat + (0x80 :: lastBytes (s.fill.toNat + 1) s.len).length = 64 := by
      have := length_lastBytes (f := s.fill.toNat + 1) (by omega) s.len
      rw [List.length_cons]
      omega
    refine ⟨n, _, hsteps, rfl, rfl, fill_append_eq_64 hlength, rfl, rfl, fun a ha => ?_⟩
    refine (read_append_flag s _ (by omega)).trans ?_
    split
    · rfl
    split
    · rfl
    · rw [getElem?_lastBytes (by omega) (by omega) ha, some_lastByteAt]
  case full =>
    obtain ⟨n, hrun⟩ := pad80_completes_full hq h56 h63
    obtain ⟨v, r, hsteps⟩ := hrun.exists_runSteps hin
    have hlength : s.fill.toNat + (0x80 :: List.replicate (63 - s.fill.toNat) (0x00 : Byte)).length = 64 := by
      rw [List.length_cons, List.length_replicate]
      omega
    refine ⟨n, _, hsteps, rfl, rfl, fill_append_eq_64 hlength, rfl, rfl, fun a ha => ?_⟩
    refine (read_append_flag s _ (by omega)).trans ?_
    split
    · rfl
    split
    · rfl
    · exact List.getElem?_replicate_of_lt (by omega)
  case empty =>
    obtain ⟨n, hrun⟩ := padz_completes_last hq (by omega)
    obtain ⟨v, r, hsteps⟩ := hrun.exists_runSteps hin
    have hlength := length_lastBytes (f := s.fill.toNat) (by omega) s.len
    refine ⟨n, _, hsteps, rfl, rfl, fill_append_eq_64 hlength, rfl, rfl, fun a ha => ?_⟩
    refine (read_append s _ (by omega) (by omega)).trans ?_
    rw [getElem?_lastBytes (by omega) (by omega) ha, some_lastByteAt]

end Sys2Proof.Machine
end

section
/-! PROOFS. The padded message block by block (40_primitives.md R106, R112; 41_padding.md): what the block and `Hs`
hold of it while it is fed to the engine, up to the last block. -/

namespace Sys2Proof.Machine

variable {s t u : State} {p m : List Byte}

/-! ### The block and the padded message -/

/-- `Hs` is the state after `j` blocks of `p`, and the bytes in the block are the first of block `j`. -/
structure Holds (p : List Byte) (j : Nat) (s : State) : Prop where
  hs : s.hs = chainRef p j
  blk : ∀ a, a < s.fill.toNat → Memory.read s.blk a = p[64 * j + a]?

/-- Appending the bytes that follow. -/
theorem Holds.append {j : Nat} (h : Holds p j s) {bs : List Byte} (hroom : s.fill.toNat + bs.length ≤ 64)
    (hbs : bs <+: p.drop (64 * j + s.fill.toNat)) : Holds p j (s.append bs) where
  hs := h.hs
  blk a ha := by
    rw [fill_append hroom] at ha
    rcases Nat.lt_or_ge a s.fill.toNat with hlt | hge
    · rw [read_append_below s bs hlt, h.blk a hlt]
    · obtain ⟨rest, hrest⟩ := hbs
      rw [read_append s bs hge ha, ← List.getElem?_append_left (by omega), hrest, List.getElem?_drop,
        Nat.add_assoc, Nat.add_sub_cancel' hge]

/-- A full block is the block of the padded message. -/
theorem Holds.block_eq {j : Nat} (h : Holds p j s) (hf : s.fill = 64) (hp : 64 * (j + 1) ≤ p.length) :
    s.block = blockOf p j := by
  apply List.ext_getElem
  · simp [State.block, blockOf]; omega
  · intro a ha _
    have ha : a < 64 := by simpa [State.block] using ha
    have hread := h.blk a (by rw [hf]; exact ha)
    rw [List.getElem?_eq_getElem (by omega)] at hread
    simp [State.block, blockOf, State.readBlk_of_read hread]

/-- The block subroutine on a block of the padded message. -/
theorem Holds.block_microRun {j : Nat} (h : Holds p j s) (hq : s.seq = ⟨.loadw, 0⟩) (hf : s.fill = 64)
    (hp : 64 * (j + 1) ≤ p.length) :
    ∃ t, MicroRun s 130 t ∧ Holds p (j + 1) t ∧ t.fill = 0 ∧ t.seq = ⟨s.ret.target, 0⟩ ∧ t.len = s.len ∧
      t.ret = s.ret := by
  obtain ⟨hs, wr, w, hcompress, hrun⟩ := Machine.block_microRun hq hf
  refine ⟨_, hrun, ⟨?_, fun a ha => absurd ha (Nat.not_lt_zero a)⟩, rfl, rfl, rfl, rfl⟩
  change hs = chainRef p (j + 1)
  rw [chainRef, hcompress, h.hs, h.block_eq hf hp]

/-! ### The bytes after the message -/

theorem drop_pad_length (m : List Byte) :
    (pad m).drop m.length =
      0x80 :: (List.replicate (padZeros m.length) 0x00 ++ lenBytes (BitVec.ofNat 64 (8 * m.length))) := by
  rw [pad, List.append_assoc, List.append_assoc, List.drop_left]
  rfl

/-- Up to 55 bytes in the last block of the message. -/
theorem drop_pad_last (h : m.length % 64 ≤ 55) :
    (pad m).drop m.length = 0x80 :: lastBytes (m.length % 64 + 1) (BitVec.ofNat 64 (8 * m.length)) := by
  have hzeros : padZeros m.length = 56 - (m.length % 64 + 1) := by rw [padZeros]; omega
  rw [drop_pad_length, hzeros, lastBytes]

/-- From 56 bytes on. -/
theorem drop_pad_full (h : 56 ≤ m.length % 64) :
    (pad m).drop m.length = (0x80 :: List.replicate (63 - m.length % 64) 0x00) ++
      lastBytes 0 (BitVec.ofNat 64 (8 * m.length)) := by
  have hzeros : padZeros m.length = 63 - m.length % 64 + 56 := by rw [padZeros]; omega
  rw [drop_pad_length, hzeros, List.replicate_add, lastBytes, List.append_assoc, List.cons_append]

/-- The last block, where the message has filled the one before. -/
theorem drop_pad_empty (h : 56 ≤ m.length % 64) :
    (pad m).drop (64 * (m.length / 64 + 1)) = lastBytes 0 (BitVec.ofNat 64 (8 * m.length)) := by
  have hsplit : 64 * (m.length / 64 + 1) = m.length + (64 - m.length % 64) := by omega
  rw [hsplit, ← List.drop_drop, drop_pad_full h]
  exact List.drop_left' (by rw [List.length_cons, List.length_replicate]; omega)

/-! ### From PAD80 to RENDER -/

/-- A call of the block subroutine with bytes that complete a block of the padded message. -/
theorem Holds.append_block {j : Nat} (h : Holds p j s) {bs : List Byte} (hroom : s.fill.toNat + bs.length = 64)
    (hbs : bs <+: p.drop (64 * j + s.fill.toNat)) (hp : 64 * (j + 1) ≤ p.length) (r : Ret) :
    ∃ t, MicroRun ((s.append bs).callBlock r) 130 t ∧ Holds p (j + 1) t ∧ t.fill = 0 ∧ t.seq = ⟨r.target, 0⟩ ∧
      t.len = s.len ∧ t.ret = r := by
  have hfull := h.append hroom.le hbs
  have hcall : Holds p j ((s.append bs).callBlock r) := ⟨hfull.hs, hfull.blk⟩
  exact hcall.block_microRun rfl (fill_append_eq_64 hroom) hp

section
variable (hq : s.seq = ⟨.pad80, 0⟩) (hlen : s.len = BitVec.ofNat 64 (8 * m.length))
  (hfill : s.fill.toNat = m.length % 64) (h : Holds (pad m) (m.length / 64) s)
include hq hlen hfill h

/-- Up to 55 bytes are in the block: it is the last one. -/
theorem closing_microRun_last (h55 : m.length % 64 ≤ 55) :
    ∃ n t, MicroRun s n t ∧ t.seq = ⟨.render, 0⟩ ∧ t.hs = chainRef (pad m) (m.length / 64 + 1) := by
  obtain ⟨n, hpad⟩ := pad80_completes_last hq (by omega)
  have hroom : s.fill.toNat + (0x80 :: lastBytes (s.fill.toNat + 1) s.len).length = 64 := by
    have := length_lastBytes (f := s.fill.toNat + 1) (by omega) s.len
    rw [List.length_cons]
    omega
  have hbytes : (pad m).drop (64 * (m.length / 64) + s.fill.toNat) = 0x80 :: lastBytes (s.fill.toNat + 1) s.len := by
    rw [hfill, Nat.div_add_mod, drop_pad_last h55, hlen]
  obtain ⟨t, hblock, hholds, -, hseq, -⟩ :=
    h.append_block hroom (hbytes ▸ List.prefix_rfl) (length_pad_of_le h55).ge .render
  exact ⟨_, t, hpad.trans hblock, hseq, hholds.hs⟩

/-- From 56 bytes on the last block holds zeros and the length. -/
theorem closing_microRun_full (h56 : 56 ≤ m.length % 64) :
    ∃ n t, MicroRun s n t ∧ t.seq = ⟨.render, 0⟩ ∧ t.hs = chainRef (pad m) (m.length / 64 + 2) := by
  have hblocks := length_pad_of_ge h56
  obtain ⟨n, hpad⟩ := pad80_completes_full hq (by omega) (by omega)
  have hroom : s.fill.toNat + (0x80 :: List.replicate (63 - s.fill.toNat) (0x00 : Byte)).length = 64 := by
    rw [List.length_cons, List.length_replicate]
    omega
  have hbytes : (0x80 :: List.replicate (63 - s.fill.toNat) 0x00) <+:
      (pad m).drop (64 * (m.length / 64) + s.fill.toNat) := by
    rw [hfill, Nat.div_add_mod, drop_pad_full h56]
    exact List.prefix_append _ _
  obtain ⟨t, hblock, hholds, hempty, hseq, hlen', -⟩ := h.append_block hroom hbytes (by omega) .padz
  have h0 : t.fill.toNat = 0 := by rw [hempty]; rfl
  obtain ⟨k, hlast⟩ := padz_completes_last hseq (by omega)
  have hlastBytes : (pad m).drop (64 * (m.length / 64 + 1) + t.fill.toNat) = lastBytes t.fill.toNat t.len := by
    rw [h0, Nat.add_zero, drop_pad_empty h56, hlen', hlen]
  obtain ⟨u, hblock', hholds', -, hseq', -⟩ := hholds.append_block (length_lastBytes (by omega) t.len)
    (hlastBytes ▸ List.prefix_rfl) (by omega) .render
  exact ⟨_, u, (hpad.trans hblock).trans (hlast.trans hblock'), hseq', hholds'.hs⟩

/-- From PAD80, with all bytes of the message taken, the padder and the block subroutine bring `Hs` to the state
after the last block (R112). -/
theorem closing_microRun :
    ∃ n t, MicroRun s n t ∧ t.seq = ⟨.render, 0⟩ ∧ t.hs = chainRef (pad m) ((pad m).length / 64) := by
  by_cases h55 : m.length % 64 ≤ 55
  · rw [length_pad_of_le h55, Nat.mul_div_cancel_left _ (by decide)]
    exact closing_microRun_last hq hlen hfill h h55
  · rw [length_pad_of_ge (by omega), Nat.mul_div_cancel_left _ (by decide)]
    exact closing_microRun_full hq hlen hfill h (by omega)

end

end Sys2Proof.Machine
end

section
/-! PROOFS. A script under a host that waits and reads the status between its lines (44_top_level.md R170): what it
does to the registers, and with no such steps among the lines the responses. -/

namespace Sys2Proof.Machine

variable {s t u : State} {q q' : List HostAct}

/-! ### Responses -/

theorem responses_add {m : Nat} (n : Nat) (h : runSteps m s = .next t) :
    responses (m + n) s = responses m s ++ responses n t := by
  induction m generalizing s with
  | zero => cases h; rw [Nat.zero_add]; rfl
  | succ m ih =>
    rw [runSteps, andThen_eq_next] at h
    obtain ⟨u, hstep, hrun⟩ := h
    rw [Nat.succ_add, responses, responses, hstep]
    simp only [ih hrun, List.append_assoc]

theorem responses_one (h : step s = .next t) : responses 1 s = t.response := by
  simp [responses, h]

/-! ### A script as a relation between register contents -/

/-- While the lines of `q` that are not in `q'` are taken, the registers go from `u` to `t`, whatever waits and
status reads stand among them; if there are none, the host receives the responses `out`. -/
def Script (u : State) (q : List HostAct) (t : State) (q' : List HostAct) (out : List Byte) : Prop :=
  ∀ v r l, l.filter HostAct.isScriptLine = q →
    ∃ n v' r' l', runSteps n (u.setPorts v r l) = .next (t.setPorts v' r' l') ∧
          l'.filter HostAct.isScriptLine = q' ∧ (l = q → l' = q' ∧ responses n (u.setPorts v r l) = out)

theorem Script.refl (u : State) (q : List HostAct) : Script u q u q [] :=
  fun v r l hl => ⟨0, v, r, l, rfl, hl, fun h => ⟨h, rfl⟩⟩

theorem Script.trans {q'' : List HostAct} {out out' : List Byte} (h : Script s q t q' out)
    (h' : Script t q' u q'' out') : Script s q u q'' (out ++ out') := by
  intro v r l hl
  obtain ⟨m, v₁, r₁, l₁, hrun, hl₁, hresp⟩ := h v r l hl
  obtain ⟨n, v₂, r₂, l₂, hrun', hl₂, hresp'⟩ := h' v₁ r₁ l₁ hl₁
  refine ⟨m + n, v₂, r₂, l₂, by rw [runSteps_add, hrun, andThen_next, hrun'], hl₂, fun heq => ?_⟩
  obtain ⟨hq, hout⟩ := hresp heq
  obtain ⟨hq', hout'⟩ := hresp' hq
  exact ⟨hq', by rw [responses_add n hrun, hout, hout']⟩

/-- A queue that is its own script holds no other entry. -/
theorem ne_filter_of_skip {a : HostAct} (ha : a.isScriptLine = false) (l : List HostAct) :
    a :: l ≠ (a :: l).filter HostAct.isScriptLine := by
  intro h
  have hmem : a ∈ (a :: l).filter HostAct.isScriptLine := h ▸ List.mem_cons_self
  simp [ha] at hmem

/-- A wait or a status read does not matter, in a wait phase and beside a micro-operation. -/
theorem script_skip {a : HostAct} {l : List HostAct} (hm : MicroStep s t) (ha : a.isScriptLine = false) (v : Bool)
    (r : Byte) : ∃ v' r', runSteps 1 (s.setPorts v r (a :: l)) = .next (t.setPorts v' r' l) := by
  obtain ⟨v', r', h⟩ := step_microStep_skip hm ha v r l
  exact ⟨v', r', (runSteps_one _).trans h⟩

/-! ### Micro-operations -/

/-- Every entry is a line other than a status read, as in a script. -/
def Presents (q : List HostAct) : Prop := ∀ a ∈ q, ∃ w, a = .present w

theorem script_microStep (hq : Presents q) (hb : s.seq.phase.isWait = false) (hm : MicroStep s t) :
    Script s q t q [] := by
  rintro v r l rfl
  cases l with
  | nil =>
    have hstep := step_microStep_nil hm v r
    exact ⟨1, false, 0, [], (runSteps_one _).trans hstep, rfl, fun _ => ⟨rfl, responses_one hstep⟩⟩
  | cons a l =>
    cases ha : a.isScriptLine with
    | false =>
      obtain ⟨v', r', hrun⟩ := script_skip hm ha v r
      exact ⟨1, v', r', l, hrun, by rw [List.filter_cons, ha]; rfl, fun h => absurd h (ne_filter_of_skip ha l)⟩
    | true =>
      obtain ⟨w, rfl⟩ := hq a (by simp [ha])
      have h5 : cmdOp w ≠ 5 := of_decide_eq_true ha
      have hstep := step_microStep_held hm hb h5 v r l
      exact ⟨1, false, 0, .present w :: l, (runSteps_one _).trans hstep, rfl, fun h => ⟨h, responses_one hstep⟩⟩

theorem script_microRun {n : Nat} (hq : Presents q) (h : MicroRun s n t) : Script s q t q [] := by
  induction h with
  | refl => exact .refl s q
  | snoc _ hb hm ih => exact ih.trans (script_microStep hq hb hm)

/-! ### Commands -/

theorem step_commandStep {w : BitVec 12} {l : List HostAct} (hp : u.seq.phase.isWait = true)
    (hc : CommandStep (u.setPorts false 0 l) w t) (v : Bool) (r : Byte) :
    step (u.setPorts v r (.present w :: l)) = .next t := by
  have hready : u.cmdReady w = true := by simp [State.cmdReady, hp]
  have hnext : (u.setPorts v r (.present w :: l)).nextInput = l := if_pos hready
  rw [step_command (s := u.setPorts v r (.present w :: l)) rfl (if_pos hready) hp, beginStep_eq_setPorts, hnext]
  exact runCommandWord_of_commandStep hc

/-- In a wait phase the host may wait and read the status before the next line, which is then taken. -/
theorem script_command {i : Instr} {r₀ : Byte} (hl : u.seq.legal = true) (hp : u.seq.phase.isWait = true)
    (hc : ∀ l, CommandStep (u.setPorts false 0 l) (commandWord i) (t.setPorts true r₀ l)) :
    Script u (line i :: q) t q [r₀] := by
  intro v r l
  induction l generalizing v r with
  | nil => exact nofun
  | cons a l ih =>
    intro hfilter
    cases ha : a.isScriptLine with
    | false =>
      obtain ⟨v', r', hskip⟩ := script_skip (l := l) (.wait hp hl) ha v r
      have hrest : l.filter HostAct.isScriptLine = line i :: q := by rw [← hfilter, List.filter_cons, ha]; rfl
      obtain ⟨n, v'', r'', l', hrun, hl', -⟩ := ih v' r' hrest
      refine ⟨1 + n, v'', r'', l', by rw [runSteps_add, hskip, andThen_next, hrun], hl', fun h => ?_⟩
      exact absurd (h.trans hfilter.symm) (ne_filter_of_skip ha l)
    | true =>
      rw [List.filter_cons, ha] at hfilter
      obtain ⟨rfl, hrest⟩ := List.cons.inj hfilter
      have hstep := step_commandStep hp (hc l) v r
      refine ⟨1, true, r₀, l, (runSteps_one _).trans hstep, hrest, fun h => ⟨(List.cons.inj h).2, ?_⟩⟩
      exact responses_one hstep

/-- After the last line the host's queue runs empty. -/
theorem drain {l : List HostAct} (hl : u.seq.legal = true) (hp : u.seq.phase.isWait = true)
    (hfilter : l.filter HostAct.isScriptLine = []) (v : Bool) (r : Byte) :
    ∃ n v' r', runSteps n (u.setPorts v r l) = .next (u.setPorts v' r' []) := by
  induction l generalizing v r with
  | nil => exact ⟨0, v, r, rfl⟩
  | cons a l ih =>
    rw [List.filter_eq_nil_iff] at hfilter
    obtain ⟨v', r', hskip⟩ := script_skip (l := l) (.wait hp hl) (by simpa using hfilter a List.mem_cons_self) v r
    obtain ⟨n, v'', r'', hrun⟩ :=
      ih (List.filter_eq_nil_iff.2 fun b hb => hfilter b (List.mem_cons_of_mem a hb)) v' r'
    exact ⟨1 + n, v'', r'', by rw [runSteps_add, hskip, andThen_next, hrun]⟩

end Sys2Proof.Machine
end

section
/-! PROOFS. Correctness against the reference (44_top_level.md R170): the script of a message line by line. -/

namespace Sys2Proof.Machine

variable {s t u : State} {q : List HostAct} {p m : List Byte}

/-! ### INIT -/

/-- The registers after INIT (R153). -/
def State.opened (s : State) : State :=
  ((((s.setHs hinit).setLen 0).setFill 0).setRet .absorb).setSeq .absorb 0

theorem commandStep_init (hp : u.seq.phase ∈ [Phase.idle, Phase.absorb, Phase.done]) (l : List HostAct) :
    CommandStep (u.setPorts false 0 l) (commandWord .init) (u.opened.setPorts true 0 l) :=
  .init (s := u.setPorts false 0 l) (decodeInvertsEncode .init) hp

theorem step_init {l : List HostAct} (hp : s.seq.phase ∈ [Phase.idle, Phase.absorb, Phase.done])
    (hin : s.input = line .init :: l) : step s = .next (s.opened.setPorts true 0 l) := by
  change step (s.setPorts s.rspValid s.rsp s.input) = _
  rw [hin]
  exact step_commandStep (Phase.wait_of_mem hp).2 (commandStep_init hp l) _ _

/-! ### PUSH -/

/-- A digest is open and `k` bytes of the padded message `p` have been taken (10_state.md R39). -/
structure Absorbing (p : List Byte) (k : Nat) (s : State) : Prop where
  seq : s.seq = ⟨.absorb, 0⟩
  len : s.len = BitVec.ofNat 64 (8 * k)
  fill : s.fill.toNat = k % 64
  holds : Holds p (k / 64) s

theorem absorbing_opened (p : List Byte) (s : State) : Absorbing p 0 s.opened :=
  ⟨rfl, rfl, rfl, rfl, fun a ha => absurd ha (Nat.not_lt_zero a)⟩

theorem Absorbing.lenAtLimit {k : Nat} (h : Absorbing p k s) (hk : k + 1 < 2 ^ 61) : s.lenAtLimit = false := by
  rw [lenAtLimit_eq_false_iff, h.len, BitVec.toNat_ofNat]
  omega

theorem Absorbing.len_succ {k : Nat} (h : Absorbing p k s) : s.len + 8 = BitVec.ofNat 64 (8 * (k + 1)) := by
  rw [h.len, Nat.mul_succ, ← BitVec.ofNat_add_ofNat]
  rfl

/-- The byte goes to the block; if it fills it, the block is compressed. -/
theorem Absorbing.script_push {k : Nat} {d : Byte} (h : Absorbing p k u) (hd : p[k]? = some d) (hk : k + 1 < 2 ^ 61)
    (hq : Presents q) :
    ∃ t, Script u (line (.push d) :: q) t q [0x00] ∧ Absorbing p (k + 1) t ∧ t.cause = u.cause := by
  obtain ⟨hlt, hget⟩ := List.getElem?_eq_some_iff.1 hd
  have hphase : u.seq.phase = .absorb := by rw [h.seq]
  have hl := h.lenAtLimit hk
  have hfill := h.fill
  have hbyte : [d] <+: p.drop (64 * (k / 64) + u.fill.toNat) := by
    rw [hfill, Nat.div_add_mod, List.drop_eq_getElem_cons hlt, hget]
    exact ⟨_, rfl⟩
  by_cases h63 : u.fill = 63
  · have hroom : u.fill.toNat + [d].length = 64 := by rw [h63]; rfl
    have hlast : k % 64 = 63 := by rw [← hfill, h63]; rfl
    have hcommand (l : List HostAct) : CommandStep (u.setPorts false 0 l) (commandWord (.push d))
        ((((u.setLen (u.len + 8)).append [d]).callBlock .absorb).setPorts true 0 l) :=
      .pushFull (s := u.setPorts false 0 l) d (decodeInvertsEncode (.push d)) hphase hl h63
    have hholds : Holds p (k / 64) (u.setLen (u.len + 8)) := ⟨h.holds.hs, h.holds.blk⟩
    obtain ⟨t, hrun, hholds', hempty, hseq, hlen, -⟩ := hholds.append_block hroom hbyte (by omega) .absorb
    refine ⟨t, (script_command (by rw [h.seq]; rfl) (by rw [hphase]; rfl) hcommand).trans (script_microRun hq hrun), ?_,
      hrun.cause_eq⟩
    refine ⟨hseq, hlen.trans h.len_succ, ?_, ?_⟩
    · rw [hempty]; change 0 = _; omega
    · rwa [show (k + 1) / 64 = k / 64 + 1 by omega]
  · have hless : u.fill.toNat < 63 := by bv_omega
    have hcommand (l : List HostAct) : CommandStep (u.setPorts false 0 l) (commandWord (.push d))
        (((u.append [d]).setLen (u.len + 8)).setPorts true 0 l) :=
      .push (s := u.setPorts false 0 l) d (decodeInvertsEncode (.push d)) hphase hl hless
    have hroom : u.fill.toNat + [d].length ≤ 64 := by rw [List.length_singleton]; omega
    have hholds := h.holds.append hroom hbyte
    refine ⟨_, script_command (by rw [h.seq]; rfl) (by rw [hphase]; rfl) hcommand, ⟨h.seq, h.len_succ, ?_, ?_⟩, rfl⟩
    · refine (fill_append hroom).trans ?_
      rw [List.length_singleton]
      omega
    · rw [show (k + 1) / 64 = k / 64 by omega]
      exact ⟨hholds.hs, hholds.blk⟩

theorem getElem?_pad {k : Nat} (hk : k < m.length) : (pad m)[k]? = m[k]? := by
  obtain ⟨rest, h⟩ := prefix_pad m
  rw [← h, List.getElem?_append_left hk]

theorem Presents.pushS (hq : Presents q) (bs : List Byte) : Presents (pushS bs ++ q) := by
  intro a ha
  rcases List.mem_append.1 ha with hpush | hrest
  · obtain ⟨d, -, rfl⟩ := List.mem_map.1 hpush
    exact ⟨_, rfl⟩
  · exact hq a hrest

/-- The bytes of the message from the `k`-th on. -/
theorem Absorbing.script_pushS {k : Nat} {bs : List Byte} (h : Absorbing (pad m) k u) (hm : m.length < 2 ^ 61)
    (hbs : m.drop k = bs) (hk : k ≤ m.length) (hq : Presents q) :
    ∃ t, Script u (pushS bs ++ q) t q (List.replicate bs.length 0x00) ∧ Absorbing (pad m) m.length t ∧
      t.cause = u.cause := by
  induction bs generalizing k u with
  | nil =>
    have hend : k = m.length := by have := List.drop_eq_nil_iff.1 hbs; omega
    exact ⟨u, .refl u q, hend ▸ h, rfl⟩
  | cons d bs ih =>
    have hlt : k < m.length := by
      have := congrArg List.length hbs
      rw [List.length_drop, List.length_cons] at this
      omega
    obtain ⟨hget, hrest⟩ := List.cons.inj ((List.drop_eq_getElem_cons hlt).symm.trans hbs)
    have hd : (pad m)[k]? = some d := by
      rw [getElem?_pad hlt, List.getElem?_eq_getElem hlt, hget]
    obtain ⟨t, hpush, ht, hcause⟩ := h.script_push hd (by omega) (hq.pushS bs)
    obtain ⟨t', hpushS, ht', hcause'⟩ := ih ht hrest hlt
    refine ⟨t', ?_, ht', hcause'.trans hcause⟩
    rw [List.length_cons, List.replicate_succ]
    exact hpush.trans hpushS

/-! ### FINAL -/

/-- FINAL, the padder, the block subroutine and the renderer. -/
theorem Absorbing.script_final (h : Absorbing (pad m) m.length u) (hq : Presents q) :
    ∃ t, Script u (line .final :: q) t q [0x00] ∧ t.seq = ⟨.done, 0⟩ ∧
      (∀ a, a < 64 → Memory.read t.hex a = (sha256Ref m)[a]?) ∧ t.cause = u.cause := by
  have hcommand (l : List HostAct) : CommandStep (u.setPorts false 0 l) (commandWord .final)
      ((u.setSeq .pad80 0).setPorts true 0 l) :=
    .final (s := u.setPorts false 0 l) (decodeInvertsEncode .final) (congrArg Seq.phase h.seq)
  obtain ⟨n, t, hclose, hseq, hhs⟩ :=
    closing_microRun (s := u.setSeq .pad80 0) rfl h.len h.fill ⟨h.holds.hs, h.holds.blk⟩
  obtain ⟨hex, hread, hrender⟩ := render_microRun hseq
  have hrun := hclose.trans hrender
  refine ⟨_, (script_command (by rw [h.seq]; rfl) (by rw [h.seq]; rfl) hcommand).trans (script_microRun hq hrun), rfl,
    fun a ha => ?_, hrun.cause_eq⟩
  rw [sha256Ref, ← hhs]
  exact hread a ha

/-! ### RDHEX -/

theorem script_rdhex (hseq : u.seq = ⟨.done, 0⟩) (is : List (BitVec 6)) :
    Script u (is.map fun i => line (.rdhex i)) u [] (is.map fun i => u.readHex i.toNat) := by
  induction is with
  | nil => exact .refl u []
  | cons i is ih =>
    have hcommand (l : List HostAct) : CommandStep (u.setPorts false 0 l) (commandWord (.rdhex i))
        (u.setPorts true (u.readHex i.toNat) l) :=
      .rdhex (s := u.setPorts false 0 l) i (decodeInvertsEncode (.rdhex i)) (congrArg Seq.phase hseq)
    exact (script_command (by rw [hseq]; rfl) (by rw [hseq]; rfl) hcommand).trans ih

/-! ### The whole script -/

theorem presents_rdDigest : Presents rdDigest := by
  intro a ha
  obtain ⟨i, -, rfl⟩ := List.mem_map.1 ha
  exact ⟨_, rfl⟩

/-- The 64 reads give the 64 characters. -/
theorem script_rdDigest (hseq : u.seq = ⟨.done, 0⟩)
    (hhex : ∀ a, a < 64 → Memory.read u.hex a = (sha256Ref m)[a]?) : Script u rdDigest u [] (sha256Ref m) := by
  have hscript := script_rdhex hseq ((List.range 64).map (BitVec.ofNat 6))
  have hlength : (sha256Ref m).length = 64 := length_hexRef _
  have hchars : ((List.range 64).map (BitVec.ofNat 6)).map (fun i => u.readHex i.toNat) = sha256Ref m := by
    apply List.ext_getElem
    · simp [hlength]
    · intro a ha ha'
      have ha : a < 64 := by simpa using ha
      have hread := hhex a ha
      rw [List.getElem?_eq_getElem ha'] at hread
      simp [Nat.mod_eq_of_lt ha, State.readHex_of_read hread]
  rw [hchars, List.map_map] at hscript
  exact hscript

/-- What follows INIT in the script of a message. -/
def afterInit (m : List Byte) : List HostAct := pushS m ++ ([line .final] ++ rdDigest)

theorem digestScript_eq (m : List Byte) : digestScript m = line .init :: afterInit m := by
  rw [digestScript, List.append_assoc, List.append_assoc]
  rfl

theorem script_after_init (u : State) (hm : m.length < 2 ^ 61) :
    ∃ t, Script u.opened (afterInit m) t []
        (List.replicate m.length 0x00 ++ ([0x00] ++ sha256Ref m)) ∧ t.seq = ⟨.done, 0⟩ ∧
      (∀ a, a < 64 → Memory.read t.hex a = (sha256Ref m)[a]?) ∧ t.cause = u.cause := by
  have hq : Presents ([line .final] ++ rdDigest) := by
    intro a ha
    rcases List.mem_cons.1 ha with rfl | hrest
    · exact ⟨_, rfl⟩
    · exact presents_rdDigest a hrest
  obtain ⟨s, hpush, habsorbing, hcause⟩ :=
    (absorbing_opened (pad m) u).script_pushS (bs := m) hm rfl (Nat.zero_le _) hq
  obtain ⟨t, hfinal, hseq, hhex, hcause'⟩ := habsorbing.script_final presents_rdDigest
  exact ⟨t, hpush.trans (hfinal.trans (script_rdDigest hseq hhex)), hseq, hhex, hcause'.trans hcause⟩

theorem runOver_setPorts_nil (hseq : t.seq = ⟨.done, 0⟩) (v : Bool) (r : Byte) :
    (t.setPorts v r []).runOver = true := by
  change t.seq.phase.isWait = true
  rw [hseq]
  rfl

/-- The script's own lines are all the entries of its queue. -/
theorem filter_afterInit (m : List Byte) : (afterInit m).filter HostAct.isScriptLine = afterInit m := by
  rw [List.filter_eq_self]
  intro a ha
  rcases List.mem_append.1 ha with hpush | hrest
  · obtain ⟨d, -, rfl⟩ := List.mem_map.1 hpush
    simp [line, HostAct.isScriptLine, commandWord, encode]
  rcases List.mem_cons.1 hrest with rfl | hread
  · rfl
  · obtain ⟨i, -, rfl⟩ := List.mem_map.1 hread
    simp [line, HostAct.isScriptLine, commandWord, encode]

/-- Settles O51: INIT is taken at once, and the rest of the queue is the rest of the script. -/
theorem digestEqualsTheReference : Obligations.DigestEqualsTheReference := by
  intro s m hp hm hin
  obtain ⟨t, hscript, hseq, hhex, hcause⟩ := script_after_init s hm
  have hinit : step s = .next (s.opened.setPorts true 0 (afterInit m)) := step_init hp (hin.trans (digestScript_eq m))
  obtain ⟨n, v, r, l, hrun, -, hresp⟩ := hscript true 0 _ (filter_afterInit m)
  obtain ⟨rfl, hout⟩ := hresp rfl
  refine ⟨1 + n, _, ?_, runOver_setPorts_nil hseq v r, hseq, hcause, ?_, hhex⟩
  · rw [runSteps_add, runSteps_one, hinit, andThen_next, hrun]
  · rw [responses_add n ((runSteps_one s).trans hinit), hout, responses_one hinit, List.replicate_succ,
      List.replicate_succ', ← List.append_assoc (List.replicate _ _)]
    rfl

/-- Settles O52: the same script, and the waits and status reads after its last line. -/
theorem waitingAndStatusReadsDoNotMatter : Obligations.WaitingAndStatusReadsDoNotMatter := by
  intro s m hl hp hm hin
  obtain ⟨t, hscript, hseq, hhex, hcause⟩ := script_after_init s hm
  have hwhole := (script_command hl (Phase.wait_of_mem hp).2 (commandStep_init hp)).trans hscript
  obtain ⟨n, v, r, l, hrun, hrest, -⟩ := hwhole s.rspValid s.rsp s.input (hin.trans (digestScript_eq m))
  obtain ⟨k, v', r', hdrain⟩ := drain (by rw [hseq]; rfl) (by rw [hseq]; rfl) hrest v r
  refine ⟨n + k, _, ?_, runOver_setPorts_nil hseq v' r', hseq, hcause, hhex⟩
  rw [runSteps_add, show runSteps n s = _ from hrun, andThen_next, hdrain]

end Sys2Proof.Machine
end

section
/-! PROOFS. History does not matter (70_reset_and_hazards.md R204, 10_state.md R37): what a data register holds is
read only after it has been written, so two engines that agree on what will be read answer alike. -/

namespace Sys2Proof.Machine

variable {s t d : State}

/-! ### What will be read -/

/-- The state with the data registers of another. -/
def State.withData (s d : State) : State :=
  { s with hs := d.hs, wr := d.wr, w := d.w, blk := d.blk, hex := d.hex, free := d.free }

/-- From these phases on `Hs` is read, or used as the start of the next block. -/
def Seq.usesHs (q : Seq) : Bool :=
  match q.phase with
  | .idle | .done | .error => false
  | _ => true

/-- In these phases `wr` holds the rounds done so far. -/
def Seq.usesWr (q : Seq) : Bool :=
  match q.phase with
  | .round | .feedfwd => true
  | _ => false

/-- The words of `W`, from the first on, that this block has written and will read. -/
def Seq.liveWords (q : Seq) : Nat :=
  match q.phase with
  | .loadw | .expand => q.t.toNat
  | .initwr | .round => 64
  | _ => 0

/-- The characters of `HEX`, from the first on, that this digest has written and RDHEX may read. -/
def Seq.liveChars (q : Seq) : Nat :=
  match q.phase with
  | .render => q.t.toNat
  | .done => 64
  | _ => 0

/-- The data registers of `d` agree with those of `s` where they will be read before they are written. -/
structure SameLive (s d : State) : Prop where
  hs : s.seq.usesHs = true → d.hs = s.hs
  wr : s.seq.usesWr = true → d.wr = s.wr
  w : ∀ i : BitVec 6, i.toNat < s.seq.liveWords → d.readW i = s.readW i
  blk : ∀ a, a < s.fill.toNat → Memory.read d.blk a = Memory.read s.blk a
  hex : ∀ a, a < s.seq.liveChars → Memory.read d.hex a = Memory.read s.hex a

/-- In the phases in which nothing is read of `wr`, `W` and `HEX`. -/
theorem SameLive.of_absorbing (hs : d.hs = s.hs)
    (blk : ∀ a, a < s.fill.toNat → Memory.read d.blk a = Memory.read s.blk a) (hwr : s.seq.usesWr = false)
    (hw : s.seq.liveWords = 0) (hhex : s.seq.liveChars = 0) : SameLive s d where
  hs _ := hs
  wr h := by simp [hwr] at h
  w i hi := by omega
  blk := blk
  hex a ha := by omega

theorem read_write_congr {m m' : Memory} {n : Nat} (h : ∀ a, a < n → Memory.read m' a = Memory.read m a) (b : Byte)
    {a : Nat} (ha : a < n + 1) : Memory.read (Memory.write m' n b) a = Memory.read (Memory.write m n b) a := by
  rw [Memory.read_write, Memory.read_write]
  split
  · rfl
  · exact h a (by omega)

/-- One byte more in both blocks. -/
theorem SameLive.blk_append (h : SameLive s d) (hf : s.fill.toNat ≤ 63) (b : Byte) :
    ∀ a, a < (s.fill + 1).toNat →
      Memory.read (Memory.write d.blk s.fill.toNat b) a = Memory.read (Memory.write s.blk s.fill.toNat b) a := by
  intro a ha
  rw [fill_succ hf] at ha
  exact read_write_congr h.blk b ha

theorem readW_writeW_congr {n i : BitVec 6} {v : Word}
    (h : ∀ i : BitVec 6, i.toNat < n.toNat → d.readW i = s.readW i) (hi : i.toNat < n.toNat + 1) :
    (d.writeW n v).readW i = (s.writeW n v).readW i := by
  rw [State.readW_writeW, State.readW_writeW]
  split
  · rfl
  · next hne => exact h i (by bv_omega)

/-- A byte of the block that is listed reads alike. -/
theorem SameLive.readBlkWord_eq (h : SameLive s d) (hblk : Memory.filledTo s.blk s.fill.toNat) {a : Nat}
    (ha : a + 4 ≤ s.fill.toNat) : (s.withData d).readBlkWord a = s.readBlkWord a := by
  refine State.readBlkWord_congr fun i hi => ?_
  obtain ⟨b, hb⟩ := Option.isSome_iff_exists.1 (hblk (a + i) (by omega))
  rw [State.readBlk_of_read hb]
  exact State.readBlk_of_read ((h.blk (a + i) (by omega)).trans hb)

/-! ### Where the index leaves off -/

theorem liveWords_loop_loadw {n : BitVec 6} (hn : n.toNat ≤ 15) :
    let q := Seq.loop .loadw n 15 ⟨.expand, 16⟩
    q.liveWords = n.toNat + 1 ∧ q.usesWr = false ∧ q.liveChars = 0 := by
  rcases loop_cases .loadw n 15 ⟨.expand, 16⟩ with ⟨rfl, hs⟩ | ⟨hne, hs⟩ <;> rw [hs]
  · exact ⟨rfl, rfl, rfl⟩
  · have hnext : (n + 1).toNat = n.toNat + 1 := by bv_omega
    exact ⟨hnext, rfl, rfl⟩

theorem liveWords_loop_expand (n : BitVec 6) :
    let q := Seq.loop .expand n 63 ⟨.initwr, 0⟩
    q.liveWords = n.toNat + 1 ∧ q.usesWr = false ∧ q.liveChars = 0 := by
  rcases loop_cases .expand n 63 ⟨.initwr, 0⟩ with ⟨rfl, hs⟩ | ⟨hne, hs⟩ <;> rw [hs]
  · exact ⟨rfl, rfl, rfl⟩
  · have hnext : (n + 1).toNat = n.toNat + 1 := by bv_omega
    exact ⟨hnext, rfl, rfl⟩

theorem liveChars_loop_round (n : BitVec 6) : (Seq.loop .round n 63 ⟨.feedfwd, 0⟩).liveChars = 0 := by
  rcases loop_cases .round n 63 ⟨.feedfwd, 0⟩ with ⟨-, hs⟩ | ⟨-, hs⟩ <;> rw [hs] <;> rfl

theorem liveChars_loop_render (n : BitVec 6) :
    let q := Seq.loop .render n 63 ⟨.done, 0⟩
    q.liveChars = n.toNat + 1 ∧ q.usesWr = false ∧ q.liveWords = 0 := by
  rcases loop_cases .render n 63 ⟨.done, 0⟩ with ⟨rfl, hs⟩ | ⟨hne, hs⟩ <;> rw [hs]
  · exact ⟨rfl, rfl, rfl⟩
  · have hnext : (n + 1).toNat = n.toNat + 1 := by bv_omega
    exact ⟨hnext, rfl, rfl⟩

theorem live_retTarget (r : Ret) :
    let q : Seq := ⟨r.target, 0⟩
    q.usesWr = false ∧ q.liveWords = 0 ∧ q.liveChars = 0 := by
  cases r <;> exact ⟨rfl, rfl, rfl⟩

/-! ### The micro-operations -/

/-- A word of the schedule written in both. -/
theorem SameLive.of_writeW {n : BitVec 6} {q : Seq} (h : SameLive s d) (v : Word) (hs : d.hs = s.hs)
    (hw : ∀ i : BitVec 6, i.toNat < n.toNat → d.readW i = s.readW i)
    (hq : q.liveWords = n.toNat + 1 ∧ q.usesWr = false ∧ q.liveChars = 0) :
    SameLive { s.writeW n v with seq := q } (d.writeW n v) where
  hs _ := hs
  wr hu := by simp [hq.2.1] at hu
  w i hi := readW_writeW_congr hw (by rw [← hq.1]; exact hi)
  blk := h.blk
  hex a ha := by simp [hq.2.2] at ha

theorem SameLive.microStep (h : SameLive s d) (hblk : Memory.filledTo s.blk s.fill.toNat) (hm : MicroStep s t) :
    ∃ d', MicroStep (s.withData d) (t.withData d') ∧ SameLive t d' := by
  have hhs {q : Seq} (hq : s.seq = q) (hu : q.usesHs = true) : d.hs = s.hs := h.hs (by rw [hq, hu])
  have hw {q : Seq} (hq : s.seq = q) (i : BitVec 6) (hi : i.toNat < q.liveWords) : d.readW i = s.readW i :=
    h.w i (by rwa [hq])
  cases hm with
  | wait hp hl => exact ⟨d, .wait (s := s.withData d) hp hl, h⟩
  | pad80 hq hf =>
    exact ⟨d.writeBlk s.fill.toNat 0x80, .pad80 (s := s.withData d) hq hf,
      .of_absorbing (hhs hq rfl) (h.blk_append hf 0x80) rfl rfl rfl⟩
  | padzFull hq hf =>
    exact ⟨d, .padzFull (s := s.withData d) hq hf, .of_absorbing (hhs hq rfl) h.blk rfl rfl rfl⟩
  | padzLength hq hf =>
    exact ⟨d, .padzLength (s := s.withData d) hq hf, .of_absorbing (hhs hq rfl) h.blk rfl rfl rfl⟩
  | padzMore hq hf h56 =>
    refine ⟨d.writeBlk s.fill.toNat 0x00, .padzMore (s := s.withData d) hq hf h56,
      .of_absorbing (hhs hq rfl) (h.blk_append hf 0x00) ?_ ?_ ?_⟩ <;>
      simp [hq, Seq.usesWr, Seq.liveWords, Seq.liveChars]
  | padlen n hq hn hf =>
    exact ⟨d.writeBlk s.fill.toNat (lenByte s.len n.toNat), .padlen (s := s.withData d) n hq hn hf,
      .of_absorbing (hhs hq rfl) (h.blk_append (by omega) _) rfl rfl rfl⟩
  | padlenLast hq hf =>
    exact ⟨d.writeBlk s.fill.toNat (lenByte s.len 7), .padlenLast (s := s.withData d) hq hf,
      .of_absorbing (hhs hq rfl) (h.blk_append (by omega) _) rfl rfl rfl⟩
  | loadw n hq hn hf =>
    have hword : (s.withData d).readBlkWord (4 * n.toNat) = s.readBlkWord (4 * n.toNat) :=
      h.readBlkWord_eq hblk (by rw [hf]; change _ ≤ 64; omega)
    have hstep := MicroStep.loadw (s := s.withData d) n hq hn hf
    rw [hword] at hstep
    have hlive : ∀ i : BitVec 6, i.toNat < n.toNat → d.readW i = s.readW i := hw hq
    exact ⟨d.writeW n _, hstep, h.of_writeW _ (hhs hq rfl) hlive (liveWords_loop_loadw hn)⟩
  | expand n hq hn =>
    have hlive : ∀ i : BitVec 6, i.toNat < n.toNat → d.readW i = s.readW i := hw hq
    have back {k : BitVec 6} (h0 : 0 < k.toNat) (hk : k.toNat ≤ 16) : (s.withData d).readW (n - k) = s.readW (n - k) :=
      hlive (n - k) (by bv_omega)
    have hstep := MicroStep.expand (s := s.withData d) n hq hn
    rw [back (by decide) (by decide), back (by decide) (by decide), back (by decide) (by decide),
      back (by decide) (by decide)] at hstep
    exact ⟨d.writeW n _, hstep, h.of_writeW _ (hhs hq rfl) hlive (liveWords_loop_expand n)⟩
  | initwr hq =>
    have heq : d.hs = s.hs := hhs hq rfl
    exact ⟨d.setWr d.hs, .initwr (s := s.withData d) hq, fun _ => heq, fun _ => heq, fun i _ => hw hq i i.isLt, h.blk,
      fun a ha => absurd ha (Nat.not_lt_zero a)⟩
  | round n hq =>
    have hwr : d.wr = s.wr := h.wr (by rw [hq]; rfl)
    have hword : d.readW n = s.readW n := hw hq n n.isLt
    refine ⟨d.setWr (roundFn d.wr (kRead n) (d.readW n)), .round (s := s.withData d) n hq, fun _ => hhs hq rfl,
      fun _ => ?_, fun i _ => hw hq i i.isLt, h.blk, fun a ha => ?_⟩
    · change roundFn d.wr (kRead n) (d.readW n) = roundFn s.wr (kRead n) (s.readW n)
      rw [hwr, hword]
    · exact absurd (liveChars_loop_round n ▸ ha : a < 0) (Nat.not_lt_zero a)
  | feedfwd hq =>
    have hwr : d.wr = s.wr := h.wr (by rw [hq]; rfl)
    have heq : d.hs = s.hs := hhs hq rfl
    have hsum : Words8.add d.hs d.wr = Words8.add s.hs s.wr := by rw [hwr, heq]
    obtain ⟨htwr, htw, hthex⟩ := live_retTarget s.ret
    exact ⟨d.setHs (Words8.add d.hs d.wr), .feedfwd (s := s.withData d) hq,
      .of_absorbing hsum (fun a ha => absurd ha (Nat.not_lt_zero a)) htwr htw hthex⟩
  | render n hq =>
    have heq : d.hs = s.hs := hhs hq rfl
    have hlive : ∀ a, a < n.toNat → Memory.read d.hex a = Memory.read s.hex a := fun a ha => h.hex a (by rwa [hq])
    obtain ⟨hchars, hwr, hwords⟩ := liveChars_loop_render n
    refine ⟨d.writeHex n.toNat (hexDigit d.hs n), .render (s := s.withData d) n hq, fun _ => heq, fun hu => ?_,
      fun i hi => ?_, h.blk, fun a ha => ?_⟩
    · exact absurd (hwr.symm.trans hu) nofun
    · exact absurd (hwords ▸ hi : i.toNat < 0) (Nat.not_lt_zero _)
    · rw [hchars] at ha
      change Memory.read (Memory.write d.hex n.toNat (hexDigit d.hs n)) a =
        Memory.read (Memory.write s.hex n.toNat (hexDigit s.hs n)) a
      rw [heq]
      exact read_write_congr hlive _ ha

/-! ### The commands and reset -/

theorem SameLive.commandStep {w : BitVec 12} (h : SameLive s d)
    (hhex : s.seq.phase = .done → Memory.filledTo s.hex 64) (hc : CommandStep s w t) :
    ∃ d', CommandStep (s.withData d) w (t.withData d') ∧ SameLive t d' := by
  have same (v : Byte) : SameLive (s.respond v) d := ⟨h.hs, h.wr, h.w, h.blk, h.hex⟩
  have faulted (c : Cause) : SameLive (s.faultedBy c) d :=
    ⟨nofun, nofun, fun i hi => absurd hi (Nat.not_lt_zero _), h.blk, fun a ha => absurd ha (Nat.not_lt_zero a)⟩
  have hhs (hp : s.seq.phase = .absorb) : d.hs = s.hs := h.hs (by rw [Seq.usesHs, hp])
  cases hc with
  | rdstat h5 => exact ⟨d, .rdstat (s := s.withData d) h5, same _⟩
  | inError hp h5 => exact ⟨d, .inError (s := s.withData d) hp h5, same _⟩
  | illegal hp r hd => exact ⟨d, .illegal (s := s.withData d) hp r hd, faulted _⟩
  | protocol hp hw =>
    refine ⟨d, .protocol (s := s.withData d) hp ?_, faulted _⟩
    cases hw with
    | push b hd hne => exact .push b hd hne
    | final hd hne => exact .final hd hne
    | rdhex n hd hne => exact .rdhex n hd hne
  | lenOverflow b hd hp hl => exact ⟨d, .lenOverflow (s := s.withData d) b hd hp hl, faulted _⟩
  | init hd hp =>
    exact ⟨d.setHs hinit, .init (s := s.withData d) hd hp,
      .of_absorbing rfl (fun a ha => absurd ha (Nat.not_lt_zero a)) rfl rfl rfl⟩
  | push b hd hp hl hf =>
    refine ⟨d.writeBlk s.fill.toNat b, .push (s := s.withData d) b hd hp hl hf,
      .of_absorbing (hhs hp) (h.blk_append (by omega) b) ?_ ?_ ?_⟩ <;>
      simp [hp, Seq.usesWr, Seq.liveWords, Seq.liveChars]
  | pushFull b hd hp hl hf =>
    have hroom : s.fill.toNat ≤ 63 := by rw [hf]; decide
    exact ⟨d.writeBlk s.fill.toNat b, .pushFull (s := s.withData d) b hd hp hl hf,
      .of_absorbing (hhs hp) (h.blk_append hroom b) rfl rfl rfl⟩
  | final hd hp =>
    exact ⟨d, .final (s := s.withData d) hd hp, .of_absorbing (hhs hp) h.blk rfl rfl rfl⟩
  | rdhex n hd hp =>
    have hchar : (s.withData d).readHex n.toNat = s.readHex n.toNat := by
      obtain ⟨b, hb⟩ := Option.isSome_iff_exists.1 (hhex hp n.toNat n.isLt)
      rw [State.readHex_of_read hb]
      exact State.readHex_of_read ((h.hex n.toNat (by rw [Seq.liveChars, hp]; exact n.isLt)).trans hb)
    have hstep := CommandStep.rdhex (s := s.withData d) n hd hp
    rw [hchar] at hstep
    exact ⟨d, hstep, same _⟩

theorem SameLive.step (h : SameLive s d) (hinv : Inv s) (hs : step s = .next t) :
    ∃ d', Machine.step (s.withData d) = .next (t.withData d') ∧ SameLive t d' := by
  have hbegin : SameLive s.beginStep d := ⟨h.hs, h.wr, h.w, h.blk, h.hex⟩
  cases hinv.stepTo hs with
  | reset hr ht =>
    subst ht
    exact ⟨((s.withData d).setInput s.nextInput).resetStep, step_reset (s := s.withData d) hr, nofun, nofun,
      fun i hi => absurd hi (Nat.not_lt_zero _), fun a ha => absurd ha (Nat.not_lt_zero a),
      fun a ha => absurd ha (Nat.not_lt_zero a)⟩
  | unaccepted hr hw hm =>
    obtain ⟨d', hm', hlive⟩ := hbegin.microStep hinv.blkFilled hm
    exact ⟨d', step_of_stepTo (.unaccepted (s := s.withData d) hr hw hm'), hlive⟩
  | command w hr hw hp hc =>
    obtain ⟨d', hc', hlive⟩ := hbegin.commandStep hinv.done hc
    exact ⟨d', step_of_stepTo (.command (s := s.withData d) w hr hw hp hc'), hlive⟩
  | statusRead w hr hw hp hm =>
    have hread : SameLive (s.beginStep.respond s.status) d := ⟨h.hs, h.wr, h.w, h.blk, h.hex⟩
    obtain ⟨d', hm', hlive⟩ := hread.microStep hinv.blkFilled hm
    exact ⟨d', step_of_stepTo (.statusRead (s := s.withData d) w hr hw hp hm'), hlive⟩

/-! ### The obligation -/

theorem SameLive.responses_eq (h : SameLive s d) (hinv : Inv s) (n : Nat) :
    responses n s = responses n (s.withData d) := by
  induction n generalizing s d with
  | zero => rfl
  | succ n ih =>
    obtain ⟨t, hs⟩ := engineNeverStops s hinv
    obtain ⟨d', hs', hlive⟩ := h.step hinv hs
    simp only [responses, hs, hs', ih hlive (stepKeepsTheInvariant s t hinv hs)]
    rfl

/-- Settles O53: after INIT the two engines differ in data registers that are written before they are read. -/
theorem historyDoesNotMatter : Obligations.HistoryDoesNotMatter := by
  intro s s' l n hinv hinv' hp hp' hin hin'
  have hs := step_init hp hin
  have hs' := step_init hp' hin'
  have hcause : s'.cause = s.cause := by
    rw [hinv.cause_of_ne (Phase.wait_of_mem hp).1, hinv'.cause_of_ne (Phase.wait_of_mem hp').1]
  cases n with
  | zero => rfl
  | succ n =>
    have hlive : SameLive (s.opened.setPorts true 0 l) s'.opened :=
      .of_absorbing rfl (fun a ha => absurd ha (Nat.not_lt_zero a)) rfl rfl rfl
    have hsame : s'.opened.setPorts true 0 l = (s.opened.setPorts true 0 l).withData s'.opened := by
      have hopened : s'.opened.cause = s.opened.cause := hcause
      simp only [State.withData, State.setPorts, hopened]
      rfl
    simp only [responses, hs, hs', hsame, ← hlive.responses_eq (stepKeepsTheInvariant _ _ hinv hs)]
    rfl

end Sys2Proof.Machine
end
